-- ==== Sys2Proof/Word.lean ====
section
/-! DEFINITION. The words the Ofilan 2416 carries on its two lines. -/

namespace Sys2Proof

/-- One byte of a mark, a slot or a bus frame. -/
abbrev Byte := BitVec 8

/-- A bus identifier: 12 bits, lower is of higher priority (00, 0.6). -/
abbrev BusId := BitVec 12

/-- Eight data bytes of a slot, a mailbox or the read hold (01, R5). -/
abbrev Data8 := Vector (BitVec 8) 8

/-- Eight zero bytes. -/
def Data8.zero : Data8 := Vector.replicate 8 0

end Sys2Proof
end

