-- ==== Sys2Proof/Config.lean ====
section
/-! DEFINITION. What one manufactured part fixes, and the constants of the data sheet. -/

namespace Sys2Proof

/-- The 48-bit serial, serial byte 0 to serial byte 5, fixed at manufacture (08, R132). It has no body: a statement
about it holds for every serial (DESIGN CHOICE, log 10; safe). -/
opaque Config.serial : Vector (BitVec 8) 6

/-- The revision code of the PROBE and discovery replies (08, R134, R137). -/
def Config.revision : Byte := 0x21

/-- Transmit errors in a row that bring SILENT (07, R120). -/
def Config.silentErrors : Nat := 32

/-- Good receptions in a row that end SILENT (07, R121). -/
def Config.resumeGoods : Nat := 64

/-- Requests the request queue holds (08, R126). -/
def Config.requestRoom : Nat := 4

/-- Misses in a row that end LOCKED (04, R64). -/
def Config.lossMisses : Nat := 3

/-- The longest interval between two consecutive marks that confirm a lock, in microseconds (04, R61). -/
def Config.longestInterval : Nat := 65535

/-- Numbers the emitted-numbers list keeps (04, R59). -/
def Config.emittedRoom : Nat := 4

end Sys2Proof
end

