-- ==== Sys2Proof/Syntax.lean ====
section
/-! DEFINITION. The commands of the 2416: one constructor of `Instr` per row of spec/opcode_table.json. The table gives
the rows no fields; the operands are what the rules say the event brings with it (INVENTORY.md, Instructions). -/

namespace Sys2Proof

/-- The strap pins BRS1 and BRS0 as sampled at a release (07, R111). -/
structure Straps where
  brs1 : Bool
  brs0 : Bool
  deriving DecidableEq, Repr

/-- A bus frame: identifier, length code 0 to 15 and data bytes (02, R18). -/
structure Frame where
  id : BusId
  lengthCode : BitVec 4
  data : List Byte
  deriving DecidableEq, Repr

/-- How another node's frame ends at the 2416 (07, R113): form and check right, or either wrong. -/
inductive Reception where
  | good (f : Frame)
  | error
  deriving DecidableEq, Repr

/-- The three outcomes of an attempt (07, R116). -/
inductive AttemptOutcome where
  | arbitrationLost
  | transmitError
  | completion
  deriving DecidableEq, Repr

/-- The four bytes of a received round mark (08, R149). -/
structure RoundMark where
  pattern : Byte
  number : Byte
  count : Byte
  check : Byte
  deriving DecidableEq, Repr

/-- The ten bytes of a slot (08, R150): state and length, eight data bytes, check. -/
structure SlotBytes where
  head : Byte
  data : Data8
  check : Byte
  deriving DecidableEq, Repr

/-- The works of a round boundary (04, R70): feed ageing, report heartbeat ageing, the edit session's idle count or the
swap of a pending commit, the snapshot interval count, the notice repeat count. -/
inductive BoundaryWork where
  | feedAgeing
  | reportAgeing
  | session
  | snapshotCount
  | noticeRepeat
  deriving DecidableEq, Repr

/-- The order in which a boundary's works are taken. R70 gives them none, so the event brings it (log 4). -/
abbrev BoundaryOrder := List BoundaryWork

/-- The works in the order R70 names them. -/
def BoundaryOrder.standard : BoundaryOrder :=
  [.feedAgeing, .reportAgeing, .session, .snapshotCount, .noticeRepeat]

/-- The commands. `time` is the time of the event in microseconds (log 2). -/
inductive Instr where
  | powerOn (time : Nat) (straps : Straps) (busBusy : Bool)
  | nresetAssert (time : Nat)
  | nresetRelease (time : Nat) (straps : Straps)
  | frameStart (time : Nat)
  | frameArrival (time : Nat) (reception : Reception)
  | selection
  | arbitrationLost (time : Nat) (winner : BusId)
  | transmitError (time : Nat)
  | completion (time : Nat)
  | finishingFrameOutcome (time : Nat) (outcome : AttemptOutcome)
  | roundMarkArrival (time : Nat) (mark : RoundMark) (order : BoundaryOrder)
  | windowClose
  | incomingSlotStart (time : Nat)
  | slotArrival (time : Nat) (slot : SlotBytes)
  | roundTimerExpiry (order : BoundaryOrder)
  | localRoundTimerExpiry (order : BoundaryOrder)
  | swap
  | sessionExpiry
  | snapshotIntervalExpiry
  | noticeRepeatExpiry
  | restartPerformed
  | probe
  | discover
  | assign
  | readConfig
  | readMailboxPart0
  | capture
  | readMailboxPart2
  | readCounters
  | resumeBus
  | restart
  | openEdit
  | closeEdit
  | setMatch
  | setTiming
  | setSlot
  | setProfile
  | commit
  | cancel
  | snapshot
  | readNotices
  | ackNotices
  | setNoticeEnable
  | readAttention
  | unknownRequest
  | broadcastDiscard
  deriving DecidableEq, Repr

end Sys2Proof
end

