-- ==== Sys2Proof/WellFormed.lean ====
section
/-! DEFINITION. Which commands are well formed. An ill-formed command still has a meaning (log 23): missing data bytes
read as 0, and a boundary order is completed. -/

namespace Sys2Proof

/-- The number of data bytes a length code stands for: codes 9 to 15 carry 8 (02, R18). -/
def Frame.count (f : Frame) : Nat := min f.lengthCode.toNat 8

/-- A frame carries as many data bytes as its length code says (02, R18). -/
def Frame.wf (f : Frame) : Bool := f.data.length == f.count

/-- An order names each of the five works exactly once (04, R70). -/
def BoundaryOrder.wf (o : BoundaryOrder) : Bool :=
  o.length == 5 && BoundaryOrder.standard.all (fun w => o.contains w)

/-- The check of a command's operands. -/
def Instr.wf : Instr → Bool
  | .frameArrival _ (.good f) => f.wf
  | .frameArrival _ .error => true
  | .roundMarkArrival _ _ o => BoundaryOrder.wf o
  | .roundTimerExpiry o => BoundaryOrder.wf o
  | .localRoundTimerExpiry o => BoundaryOrder.wf o
  | .powerOn _ _ _ | .nresetAssert _ | .nresetRelease _ _ | .frameStart _ | .selection => true
  | .arbitrationLost _ _ | .transmitError _ | .completion _ | .finishingFrameOutcome _ _ => true
  | .windowClose | .incomingSlotStart _ | .slotArrival _ _ => true
  | .swap | .sessionExpiry | .snapshotIntervalExpiry | .noticeRepeatExpiry | .restartPerformed => true
  | .probe | .discover | .assign | .readConfig | .readMailboxPart0 | .capture | .readMailboxPart2 => true
  | .readCounters | .resumeBus | .restart | .openEdit | .closeEdit | .setMatch | .setTiming => true
  | .setSlot | .setProfile | .commit | .cancel | .snapshot | .readNotices | .ackNotices => true
  | .setNoticeEnable | .readAttention | .unknownRequest | .broadcastDiscard => true

end Sys2Proof
end

