-- ==== Sys2Proof/Machine/State.lean ====
section
/-! DEFINITION. The state of the 2416, block by block as 00 section 0.3 lists them, and its value right after reset. -/

namespace Sys2Proof.Machine

/-- Nothing the data sheet describes stops the part, so no command faults (INVENTORY.md, Faults). -/
inductive Fault where
  deriving DecidableEq, Repr

/-- Why a command has no meaning in the model. No arm of `exec` raises it; an arm that did would be safe. -/
inductive Refusal where
  /-- The command named is not modelled. Raised by no arm; it would be safe. -/
  | notModelled (mnemonic : String)
  deriving DecidableEq, Repr

/-! ### Images (01, R3; 03, R41; 09, R154, R163) -/

/-- The kind of a mailbox (01, R2). -/
inductive Kind where
  | unused | feed | report
  deriving DecidableEq, Repr

/-- The degraded action of a report mailbox (01, R3). -/
inductive Degraded where
  | forward | empty | suppress
  deriving DecidableEq, Repr

/-- The configuration part of a mailbox (01, R3). -/
structure MailboxConfig where
  kind : Kind
  identifier : BusId
  mask : BitVec 12
  chain : Bool
  length : Nat
  changeMask : BitVec 8
  limit : BitVec 8
  degraded : Degraded
  attention : Bool
  deriving DecidableEq, Repr

/-- The role of a slot-map entry (03, R41). -/
inductive SlotRole where
  | pass | listen | drive
  deriving DecidableEq, Repr

/-- A slot-map entry (03, R41). -/
structure SlotEntry where
  role : SlotRole
  mailbox : Fin 32
  deriving DecidableEq, Repr

/-- The ring role (04, R56). -/
inductive RingRole where
  | follower | master
  deriving DecidableEq, Repr

/-- The slot counts a round may have (03, R37). -/
inductive SlotCount where
  | c8 | c16 | c32 | c64
  deriving DecidableEq, Repr

/-- The queue policy (06, R101). -/
inductive Policy where
  | priority | arrival
  deriving DecidableEq, Repr

/-- The nine profile parameters (09, R163). -/
structure Profile where
  role : RingRole
  slotCount : SlotCount
  roundPeriod : Nat
  policy : Policy
  retryLimit : Nat
  snapshotInterval : Nat
  noticeRepeat : Nat
  selfFeed : Bool
  idleLimit : Nat
  deriving DecidableEq, Repr

/-- An image of the configuration (09, R154). -/
structure Image where
  boxes : Vector MailboxConfig 32
  slots : Vector SlotEntry 64
  profile : Profile
  deriving DecidableEq, Repr

/-! ### Mailbox table (01, R5) -/

/-- The states of FEED and REPORT mailboxes (01, R6, R7). Both kinds have VOID. -/
inductive BoxState where
  | void
  | fresh | held | stale
  | quiet | pending | sending
  deriving DecidableEq, Repr

/-- The class of a listened slot (01, R8). -/
inductive SlotClass where
  | none | live | stale | void | lost
  deriving DecidableEq, Repr

/-- Eight bytes and a class: the last sent content, or the content captured at a start (01, R8; 05, R86). -/
structure Content where
  data : Data8
  cls : SlotClass
  deriving DecidableEq, Repr

/-- The runtime part of a mailbox (01, R5), with the content captured while SENDING (05, R80, R86). -/
structure Runtime where
  state : BoxState
  data : Data8
  dataLength : Nat
  classSeen : SlotClass
  lastSent : Content
  age : BitVec 8
  again : Bool
  generation : BitVec 8
  captured : Option Content
  deriving DecidableEq, Repr

/-! ### Ring port (04, R56) -/

/-- The lock state of the follower lock machine or the return lock (04, R56). -/
inductive LockState where
  | hunt | confirm | locked
  deriving DecidableEq, Repr

/-- The reference mark: its round number and its arrival time in microseconds (04, R60). -/
structure Reference where
  number : Byte
  time : Nat
  deriving DecidableEq, Repr

/-- A running round timer (04, R57): its period in microseconds, its next expiry in sixteenths of a microsecond. -/
structure RoundTimer where
  period : Nat
  next : Nat
  deriving DecidableEq, Repr

/-- What becomes of the slots of the accepted round on the inbound line: re-emitted by a follower (03, R48), passed
through after a swap to MASTER (03, R53), or read by a master (03, R46). -/
inductive RoundUse where
  | follow | passThrough | returned
  deriving DecidableEq, Repr

/-- The accepted round being received (03, R40, R48): slots announced, slots whose last byte has arrived, whether the
next slot is under way, and the replacement slot going out in its place (03, R50). -/
structure InRound where
  slots : Nat
  arrived : Nat
  started : Bool
  driven : Option SlotBytes
  use : RoundUse
  deriving DecidableEq, Repr

/-- The master's round being emitted (03, R45): the time its mark begins in sixteenths of a microsecond, its slots, the
next slot instant, its mark, and what is under way: the mark (`none`) or a slot. -/
structure OutRound where
  start : Nat
  slots : Nat
  next : Nat
  mark : RoundMark
  sending : Option SlotBytes
  deriving DecidableEq, Repr

/-- The ring port's state (04, R56), with the rounds in progress on its two lines. -/
structure RingPort where
  lock : LockState
  reference : Option Reference
  period : Option Nat
  expected : Option Nat
  expectedNumber : Byte
  misses : Nat
  timer : Option RoundTimer
  current : Byte
  emitted : List Byte
  inRound : Option InRound
  outRound : Option OutRound
  deriving DecidableEq, Repr

/-- What goes out on the outbound ring line: a whole mark, a whole slot with its number, or one that broke off (03, R52,
R55). -/
inductive RingEmission where
  | mark (m : RoundMark)
  | slot (number : Nat) (bytes : SlotBytes)
  | partialMark
  | partialSlot (number : Nat)
  deriving DecidableEq, Repr

/-! ### Transmit queue (06, R96, R97) -/

/-- Whose frame an entry is, with the generation of a REPORT entry (06, R96). -/
inductive Owner where
  | report (mailbox : Fin 32) (generation : Byte)
  | reply (entry : Fin 4)
  | notice
  | discovery
  deriving DecidableEq, Repr

/-- A transmit-queue entry (06, R96). -/
structure Entry where
  owner : Owner
  stamp : Nat
  attempts : Nat
  deriving DecidableEq, Repr

/-- The result codes (08, R131). -/
inductive ResultCode where
  | ok | busy | noSession | owned | badIndex | badValue | inconsistent | cancelled | tooLate | nothing | noHold
  | unknown
  deriving DecidableEq, Repr

/-- The content of a reply (06, R97; 08, R152). -/
structure Reply where
  code : Byte
  tag : Byte
  result : ResultCode
  data : List Byte
  deriving DecidableEq, Repr

/-- The states of a reply entry (06, R97). -/
inductive ReplyStatus where
  | free | reserved | queued | inFlight
  deriving DecidableEq, Repr

/-- One of the four reply entries (06, R97). -/
structure ReplyEntry where
  status : ReplyStatus
  content : Reply
  deriving DecidableEq, Repr

/-- The transmit queue: the queued entries in stamp order, the number of the event that places (`epoch`), the replies
placed within it, and the reply entries (06, R96 to R98; log 6). -/
structure TransmitQueue where
  queued : List Entry
  epoch : Nat
  placed : Nat
  replies : Vector ReplyEntry 4
  deriving DecidableEq, Repr

/-! ### Bus port (07, R111, R112) -/

/-- The port state (07, R112). -/
inductive PortState where
  | active | silent
  deriving DecidableEq, Repr

/-- The line activity (07, R112). -/
inductive LineActivity where
  | idle | receiving | sending
  deriving DecidableEq, Repr

/-- The frame in flight: an entry's captured frame, or a finishing frame (07, R112, R123). -/
inductive Flight where
  | attempt (entry : Entry) (frame : Frame)
  | finishing (frame : Frame)
  deriving DecidableEq, Repr

/-- The bus bit rates (07, R111). -/
inductive BitRate where
  | k125 | k250 | k500 | k1000
  deriving DecidableEq, Repr

/-- The bus port's state (07, R112). `unheard` is a frame of another node that is on the bus and is not received,
because it was running at a release (07, R124). -/
structure BusPort where
  port : PortState
  line : LineActivity
  flight : Option Flight
  errors : Nat
  goods : Nat
  rate : BitRate
  unheard : Bool
  deriving DecidableEq, Repr

/-- What the part does on BTX: a frame it begins to send, the acknowledge of another node's frame, a frame cut at the
assertion of NRESET (07, R115, R116, R124). -/
inductive BusEmission where
  | frame (f : Frame)
  | acknowledge
  | cut
  deriving DecidableEq, Repr

/-! ### Management engine (08, R126, R132, R140, R146; 09, R155) -/

/-- A request in the request queue (08, R126). -/
structure Request where
  broadcast : Bool
  data : List Byte
  deriving DecidableEq, Repr

/-- A pending commit: the tag of its COMMIT and its reserved reply entry (09, R155). -/
structure PendingCommit where
  tag : Byte
  entry : Fin 4
  deriving DecidableEq, Repr

/-- The read hold (08, R140). -/
structure ReadHold where
  valid : Bool
  mailbox : Fin 32
  data : Data8
  changed : Bool
  deriving DecidableEq, Repr

/-- The management engine's state. `owner` is the owner token while a session is open. -/
structure Engine where
  requests : List Request
  node : BitVec 6
  serial : Vector (BitVec 8) 6
  owner : Option Byte
  idle : Nat
  commit : Option PendingCommit
  lastCommit : Option Byte
  hold : ReadHold
  waiting : Option (Fin 4)
  deriving DecidableEq, Repr

/-! ### Notice unit and counter bank (10, R174 to R188) -/

/-- The thirteen conditions (10, R174). -/
inductive Condition where
  | ringLocked | ringLost | busSilent | busResumed | txAbandon | reqLost | snapshotReady | commitDone | sessionExpired
  | attention | ringForeign | restarted | slotCheck
  deriving DecidableEq, Repr

/-- A set of conditions: condition n is bit n (10, R174). -/
abbrev ConditionSet := BitVec 13

/-- The notice unit's state (10, R188). -/
structure NoticeUnit where
  latched : ConditionSet
  enabled : ConditionSet
  deferred : Bool
  repeatCount : Nat
  sequence : Byte
  attention : BitVec 32
  deriving DecidableEq, Repr

/-- The counter bank's state (10, R184 to R186). -/
structure CounterBank where
  live : Vector (BitVec 16) 111
  snap : Vector (BitVec 16) 111
  sequence : BitVec 16
  interval : Nat
  deriving DecidableEq, Repr

/-! ### A round boundary whose work is not finished (04, R70; log 5) -/

/-- What raised a boundary (04, R70). -/
inductive BoundaryCause where
  | acceptedMark | localTimer | masterTimer
  deriving DecidableEq, Repr

/-- A step of the table that a boundary has brought about and that is taken before anything else. -/
inductive DueStep where
  | swap | sessionExpiry | snapshotExpiry | repeatExpiry
  deriving DecidableEq, Repr

/-- The boundary in progress: its round number, its cause, the step due, and the works after it. -/
structure Boundary where
  number : Byte
  cause : BoundaryCause
  due : DueStep
  rest : BoundaryOrder
  deriving DecidableEq, Repr

/-- The state of the 2416. `now`, `windowClosed` and `ring.timer.next` are in sixteenths of a microsecond (log 2).
`windowClosed` is the last time at which a window closed with no mark in it (04, R62; log 32). -/
@[ext]
structure State where
  now : Nat
  windowClosed : Option Nat
  held : Bool
  boxes : Vector Runtime 32
  active : Image
  staging : Image
  ring : RingPort
  tx : TransmitQueue
  bus : BusPort
  engine : Engine
  notices : NoticeUnit
  counters : CounterBank
  boundary : Option Boundary
  restartDue : Bool
  rout : List RingEmission
  btx : List BusEmission
  pending : List Instr
  deriving DecidableEq, Repr

/-! ### Values after reset -/

/-- The default configuration of a mailbox (01, R3). -/
def MailboxConfig.default : MailboxConfig where
  kind := .unused
  identifier := 0
  mask := 0
  chain := false
  length := 0
  changeMask := 0
  limit := 0
  degraded := .forward
  attention := false

/-- The default profile (09, R163). -/
def Profile.default : Profile where
  role := .follower
  slotCount := .c16
  roundPeriod := 1000
  policy := .priority
  retryLimit := 8
  snapshotInterval := 1000
  noticeRepeat := 0
  selfFeed := false
  idleLimit := 2000

/-- The default image (01, R11; 03, R55; 09, R172). -/
def Image.default : Image where
  boxes := Vector.replicate 32 MailboxConfig.default
  slots := Vector.replicate 64 { role := .pass, mailbox := 0 }
  profile := Profile.default

/-- The runtime part after a reset (01, R11). -/
def Runtime.reset : Runtime where
  state := .void
  data := Data8.zero
  dataLength := 0
  classSeen := .none
  lastSent := { data := Data8.zero, cls := .none }
  age := 0
  again := false
  generation := 0
  captured := none

/-- The ring port after a reset at time `now` (04, R56, R76): a follower in HUNT, the local round timer running on the
default period of 1000 microseconds. -/
def RingPort.reset (now : Nat) : RingPort where
  lock := .hunt
  reference := none
  period := none
  expected := none
  expectedNumber := 0
  misses := 0
  timer := some { period := 1000, next := now + 16 * 1000 }
  current := 0
  emitted := []
  inRound := none
  outRound := none

/-- A free reply entry; its content is blank (log 24). -/
def ReplyEntry.blank : ReplyEntry where
  status := .free
  content := { code := 0, tag := 0, result := .ok, data := [] }

/-- The transmit queue after a reset (06, R110), holding the NOTICE entry that RESTARTED offers (10, R188). Its stamp is
that of the first event, rank of a notice (log 6). -/
def TransmitQueue.reset : TransmitQueue where
  queued := [{ owner := .notice, stamp := 40, attempts := 0 }]
  epoch := 0
  placed := 0
  replies := Vector.replicate 4 ReplyEntry.blank

/-- The bus port after the release of NRESET (07, R112, R124); the straps read 0, 0 (DESIGN CHOICE, log 11) and no
frame is on the bus (DESIGN CHOICE, log 12). -/
def BusPort.reset : BusPort where
  port := .active
  line := .idle
  flight := none
  errors := 0
  goods := 0
  rate := .k125
  unheard := false

/-- The read hold after a reset (08, R140). -/
def ReadHold.reset : ReadHold where
  valid := false
  mailbox := 0
  data := Data8.zero
  changed := false

/-- The management engine after the release of NRESET (08, R148; 09, R155). -/
def Engine.reset : Engine where
  requests := []
  node := 0
  serial := Config.serial
  owner := none
  idle := 0
  commit := none
  lastCommit := none
  hold := ReadHold.reset
  waiting := none

/-- The notice unit after a reset (10, R188): RESTARTED, condition 11, latched and enabled alone. -/
def NoticeUnit.reset : NoticeUnit where
  latched := 0x800
  enabled := 0x800
  deferred := false
  repeatCount := 0
  sequence := 0
  attention := 0

/-- The counter bank after a reset (10, R188). -/
def CounterBank.reset : CounterBank where
  live := Vector.replicate 111 0
  snap := Vector.replicate 111 0
  sequence := 0
  interval := 0

/-- The 2416 right after the release of the power-on reset, at time 0 (11, R189; log 12). -/
def State.reset : State where
  now := 0
  windowClosed := none
  held := false
  boxes := Vector.replicate 32 Runtime.reset
  active := Image.default
  staging := Image.default
  ring := RingPort.reset 0
  tx := TransmitQueue.reset
  bus := BusPort.reset
  engine := Engine.reset
  notices := NoticeUnit.reset
  counters := CounterBank.reset
  boundary := none
  restartDue := false
  rout := []
  btx := []
  pending := []

end Sys2Proof.Machine
end

