-- ==== Sys2Proof/Machine/Operands.lean ====
section
/-! DEFINITION. The operand forms of the wire: codes (01, R16; 03, R41; 04, R56; 07, R112; 08, R131), frames and
requests (08, R126, R151), marks and slots (08, R149, R150), reply, discovery and notice layouts (08, R152, R153), and
which row of the table takes a request (08, R130). -/

namespace Sys2Proof

/-- The data bytes of a frame: as many as its length code says (02, R18); a byte the operand leaves out reads as 0
(log 23). -/
def Frame.bytes (f : Frame) : List Byte := (List.range f.count).map (fun i => f.data.getD i 0)

/-- The order with each work taken once: the works it names, at their first place, then the others in R70's order
(log 23). A well-formed order is its own completion. -/
def BoundaryOrder.complete (o : BoundaryOrder) : BoundaryOrder :=
  if BoundaryOrder.wf o then o
  else
    let named := o.foldl (fun acc w => if acc.contains w then acc else acc ++ [w]) []
    named ++ BoundaryOrder.standard.filter (fun w => !named.contains w)

namespace Machine

/-! ### Numbers -/

/-- Eight bytes from the first `n` bytes of a list, 0 beyond (02, R23). -/
def data8Of (l : List Byte) (n : Nat) : Data8 :=
  Vector.ofFn (fun i : Fin 8 => if i.val < n then l.getD i.val 0 else 0)

/-- The number two bytes carry, high byte first (08, 8.12). -/
def numberOf (hi lo : Byte) : Nat := hi.toNat * 256 + lo.toNat

/-- The two bytes of a number, high byte first (08, 8.12). -/
def bytesOf (n : Nat) : List Byte := [BitVec.ofNat 8 (n / 256), BitVec.ofNat 8 n]

/-- A flag as a byte: 0 off, 1 on. -/
def flagByte (b : Bool) : Byte := if b then 1 else 0

/-- A saturating increment: at the greatest value it stays there (01, R9; 10, R184). -/
def satSucc {w : Nat} (x : BitVec w) : BitVec w := if x = BitVec.allOnes w then x else x + 1

/-! ### Codes -/

/-- (01, R16) -/
def Kind.code : Kind → Byte
  | .unused => 0 | .feed => 1 | .report => 2

/-- (01, R16) -/
def Kind.ofCode : Nat → Option Kind
  | 0 => some .unused | 1 => some .feed | 2 => some .report | _ => none

/-- The FEED and REPORT state codes (01, R16). The FEED codes are the slot states' (03, R38). -/
def BoxState.code : BoxState → Byte
  | .void => 0 | .fresh => 1 | .held => 2 | .stale => 3
  | .quiet => 1 | .pending => 2 | .sending => 3

/-- (01, R16) -/
def SlotClass.code : SlotClass → Byte
  | .none => 0 | .live => 1 | .stale => 2 | .void => 3 | .lost => 4

/-- The degraded classes (00, 0.7): STALE, VOID, LOST. -/
def SlotClass.degraded : SlotClass → Bool
  | .none => false | .live => false | .stale => true | .void => true | .lost => true

/-- The class a slot state code gives (01, R8; 03, R39): FRESH and HELD give LIVE. -/
def SlotClass.ofSlotState : Nat → SlotClass
  | 0 => .void | 1 => .live | 2 => .live | _ => .stale

/-- (01, R16) -/
def Degraded.code : Degraded → Byte
  | .forward => 0 | .empty => 1 | .suppress => 2

/-- (01, R16) -/
def Degraded.ofCode : Nat → Option Degraded
  | 0 => some .forward | 1 => some .empty | 2 => some .suppress | _ => none

/-- (03, R41) -/
def SlotRole.code : SlotRole → Byte
  | .pass => 0 | .listen => 1 | .drive => 2

/-- (03, R41) -/
def SlotRole.ofCode : Nat → Option SlotRole
  | 0 => some .pass | 1 => some .listen | 2 => some .drive | _ => none

/-- (04, R56) -/
def RingRole.code : RingRole → Byte
  | .follower => 0 | .master => 1

/-- (04, R56) -/
def LockState.code : LockState → Byte
  | .hunt => 0 | .confirm => 1 | .locked => 2

/-- (07, R112) -/
def PortState.code : PortState → Byte
  | .active => 0 | .silent => 1

/-- (08, R131) -/
def ResultCode.code : ResultCode → Byte
  | .ok => 0x00 | .busy => 0x01 | .noSession => 0x02 | .owned => 0x03 | .badIndex => 0x04 | .badValue => 0x05
  | .inconsistent => 0x06 | .cancelled => 0x07 | .tooLate => 0x08 | .nothing => 0x09 | .noHold => 0x0A
  | .unknown => 0x0B

/-- The number of slots (03, R37). -/
def SlotCount.toNat : SlotCount → Nat
  | .c8 => 8 | .c16 => 16 | .c32 => 32 | .c64 => 64

/-- (03, R37) -/
def SlotCount.ofNumber : Nat → Option SlotCount
  | 8 => some .c8 | 16 => some .c16 | 32 => some .c32 | 64 => some .c64 | _ => none

/-- The minimum round period in microseconds (03, R40). -/
def SlotCount.minPeriod : SlotCount → Nat
  | .c8 => 56 | .c16 => 107 | .c32 => 209 | .c64 => 414

/-- (07, R111) -/
def BitRate.ofStraps (p : Straps) : BitRate :=
  match p.brs1, p.brs0 with
  | false, false => .k125
  | false, true => .k250
  | true, false => .k500
  | true, true => .k1000

/-! ### Marks and slots (08, R149, R150) -/

/-- The mark check: bytes 1 and 2 and 0x5A, exclusive-or. -/
def markCheck (number count : Byte) : Byte := number ^^^ count ^^^ 0x5A

/-- A mark the 2416 builds as master (03, R37, R45). -/
def markOf (number : Byte) (slots : Nat) : RoundMark :=
  let count := BitVec.ofNat 8 slots
  { pattern := 0xE7, number := number, count := count, check := markCheck number count }

/-- The slot count a mark carries, if it is one of the four (03, R37). -/
def markSlots (m : RoundMark) : Option Nat := (SlotCount.ofNumber m.count.toNat).map SlotCount.toNat

/-- The three tests of a good mark (03, R37). -/
def markGood (m : RoundMark) : Bool :=
  m.pattern == 0xE7 && m.check == markCheck m.number m.count && (markSlots m).isSome

/-- The slot check: bytes 0 to 8 and 0xA5, exclusive-or. -/
def slotCheck (head : Byte) (data : Data8) : Byte := data.toList.foldl (fun x y => x ^^^ y) head ^^^ 0xA5

/-- A slot the 2416 builds: state code times 16 plus the length, the data, the check (03, R38; 08, R150). -/
def slotOf (stateCode : Byte) (length : Nat) (data : Data8) : SlotBytes :=
  let head := BitVec.ofNat 8 (stateCode.toNat * 16 + length)
  { head := head, data := data, check := slotCheck head data }

/-- The VOID slot a master emits in a PASS or LISTEN position (03, R39, R45). -/
def voidSlot : SlotBytes := slotOf 0 0 Data8.zero

/-- The state code of a received slot. -/
def slotStateCode (b : SlotBytes) : Nat := b.head.toNat / 16

/-- The data length of a received slot. -/
def slotLength (b : SlotBytes) : Nat := b.head.toNat % 16

/-- A good slot: its check agrees and it is well formed (03, R38; 08, R150). -/
def slotGood (b : SlotBytes) : Bool :=
  b.check == slotCheck b.head b.data && slotStateCode b ≤ 3 && slotLength b ≤ 8 &&
    (List.finRange 8).all (fun i => i.val < slotLength b || b.data[i] == 0)

/-! ### Conditions and the attention set (10, R174; 08, R153) -/

/-- The condition numbers (10, R174). -/
def Condition.number : Condition → Nat
  | .ringLocked => 0 | .ringLost => 1 | .busSilent => 2 | .busResumed => 3 | .txAbandon => 4 | .reqLost => 5
  | .snapshotReady => 6 | .commitDone => 7 | .sessionExpired => 8 | .attention => 9 | .ringForeign => 10
  | .restarted => 11 | .slotCheck => 12

/-- The set of one condition. -/
def Condition.bit (c : Condition) : ConditionSet := BitVec.twoPow 13 c.number

/-- Whether a condition is in a set. -/
def Condition.isIn (c : Condition) (v : ConditionSet) : Bool := v.getLsbD c.number

/-- The two bytes of a set: conditions 0 to 7, then 8 to 12 (10, R174). -/
def conditionBytes (v : ConditionSet) : List Byte := [v.setWidth 8, (v >>> 8).setWidth 8]

/-- The set two bytes name, the second at most 31 (10, R180, R181). -/
def conditionsOf (lo hi : Byte) : ConditionSet := lo.setWidth 13 ||| (hi.setWidth 13 <<< 8)

/-- The four bytes of the attention set, mailboxes 0 to 7 first (08, R153). -/
def attentionBytes (v : BitVec 32) : List Byte :=
  [v.setWidth 8, (v >>> 8).setWidth 8, (v >>> 16).setWidth 8, (v >>> 24).setWidth 8]

/-! ### Identifiers (00, 0.4; 06, R101) -/

/-- The highest traffic identifier. -/
def lastTraffic : BusId := 0xEFF

/-- The broadcast request identifier. -/
def broadcastId : BusId := 0xF00

/-- The request identifier of a node. -/
def requestId (node : BitVec 6) : BusId := 0xF00 + node.setWidth 12

/-- The reply identifier of a node. -/
def replyId (node : BitVec 6) : BusId := 0xF40 + node.setWidth 12

/-- The notice identifier of a node. -/
def noticeId (node : BitVec 6) : BusId := 0xF80 + node.setWidth 12

/-- The serial hash: the low six bits of the exclusive-or of the serial bytes (08, R132). -/
def serialHash (serial : Vector (BitVec 8) 6) : BitVec 6 :=
  (serial.toList.foldl (fun x y => x ^^^ y) (0 : Byte)).setWidth 6

/-- The discovery reply identifier. -/
def discoveryId (serial : Vector (BitVec 8) 6) : BusId := 0xFC0 + (serialHash serial).setWidth 12

/-- A frame the 2416 sends: its length code is the number of its data bytes (07, R116). -/
def frameOf (id : BusId) (data : List Byte) : Frame :=
  { id := id, lengthCode := BitVec.ofNat 4 data.length, data := data }

/-- The data of a management reply frame (08, R152). -/
def replyData (r : Reply) : List Byte := r.code :: r.tag :: r.result.code :: r.data

/-! ### Requests (08, R126, R130, R151) -/

/-- Data byte `i` of a request, 0 if it is missing. -/
def Request.byte (r : Request) (i : Nat) : Byte := r.data.getD i 0

/-- Byte 0: the request code. -/
def Request.code (r : Request) : Byte := r.byte 0

/-- Byte 1: the tag. -/
def Request.tag (r : Request) : Byte := r.byte 1

/-- The rows of the table that take a request. -/
inductive TakeRow where
  | probe | discover | assign | readConfig | readMailboxPart0 | capture | readMailboxPart2 | readCounters | resumeBus
  | restart | openEdit | closeEdit | setMatch | setTiming | setSlot | setProfile | commit | cancel | snapshot
  | readNotices | ackNotices | setNoticeEnable | readAttention | unknownRequest | broadcastDiscard
  deriving DecidableEq, Repr

/-- The row that takes a broadcast request: code first, then the number of data bytes, then the arguments (08, R130,
R133, R135; 10, R187). -/
def broadcastRow (r : Request) : TakeRow :=
  match r.code.toNat with
  | 0x02 => if 3 ≤ r.data.length then .discover else .broadcastDiscard
  | 0x03 => if 8 ≤ r.data.length ∧ r.tag.toNat ≤ 63 then .assign else .broadcastDiscard
  | 0x13 => .snapshot
  | _ => .broadcastDiscard

/-- The row that takes a READ_MAILBOX request: by its part; a missing or refused part goes to part 0 (log 22). -/
def readMailboxRow (r : Request) : TakeRow :=
  if r.data.length < 4 then .readMailboxPart0
  else match (r.byte 3).toNat with
    | 1 => .capture
    | 2 => .readMailboxPart2
    | _ => .readMailboxPart0

/-- The row that takes a node-addressed request, by its code (08, R130). -/
def nodeRow (r : Request) : TakeRow :=
  match r.code.toNat with
  | 0x01 => .probe
  | 0x08 => .openEdit
  | 0x09 => .closeEdit
  | 0x0A => .setMatch
  | 0x0B => .setTiming
  | 0x0C => .setSlot
  | 0x0D => .setProfile
  | 0x0E => .commit
  | 0x0F => .cancel
  | 0x10 => .readConfig
  | 0x11 => readMailboxRow r
  | 0x12 => .readCounters
  | 0x13 => .snapshot
  | 0x14 => .readNotices
  | 0x15 => .ackNotices
  | 0x16 => .setNoticeEnable
  | 0x17 => .readAttention
  | 0x18 => .resumeBus
  | 0x1F => .restart
  | _ => .unknownRequest

/-- The row that takes a request. -/
def Request.row (r : Request) : TakeRow := if r.broadcast then broadcastRow r else nodeRow r

end Machine

end Sys2Proof
end

