-- ==== Sys2Proof/Machine/Ops.lean ====
section
/-! DEFINITION. The named operations over the mailbox records, the images, the counters, the transmit queue and the
reply entries. -/

namespace Sys2Proof.Machine

/-- The 32 mailbox numbers, ascending. -/
def allBoxes : List (Fin 32) := List.finRange 32

/-! ### Mailboxes and images -/

/-- The runtime part of mailbox `m` (01, R5). -/
def State.box (s : State) (m : Fin 32) : Runtime := s.boxes[m]

/-- The configuration of mailbox `m` in the active image (01, R1). -/
def State.config (s : State) (m : Fin 32) : MailboxConfig := s.active.boxes[m]

/-- Writes the runtime part of mailbox `m`. -/
def State.setBox (m : Fin 32) (b : Runtime) (s : State) : State := { s with boxes := s.boxes.set m b }

/-- Entry `n` of the slot map (03, R41); beyond 63 there is none and nothing acts (03, R43). -/
def Image.slot (i : Image) (n : Nat) : SlotEntry :=
  if h : n < 64 then i.slots[n] else { role := .pass, mailbox := 0 }

/-- The ring role in force (04, R56). -/
def State.role (s : State) : RingRole := s.active.profile.role

/-! ### Counters (10, R184) -/

/-- Counter 3m. -/
def counterA (m : Fin 32) : Fin 111 := ⟨3 * m.val, by omega⟩

/-- Counter 3m+1. -/
def counterB (m : Fin 32) : Fin 111 := ⟨3 * m.val + 1, by omega⟩

/-- Counter 3m+2. -/
def counterC (m : Fin 32) : Fin 111 := ⟨3 * m.val + 2, by omega⟩

/-- One more event in live counter `k`, saturating at 65535 (10, R184). -/
def State.count (k : Fin 111) (s : State) : State :=
  { s with counters := { s.counters with live := s.counters.live.set k (satSucc s.counters.live[k]) } }

/-- Live counter `k`. -/
def State.live (s : State) (k : Fin 111) : BitVec 16 := s.counters.live[k]

/-- Sets live counter `k` to 0 (09, R168). -/
def State.zeroLive (k : Fin 111) (s : State) : State :=
  { s with counters := { s.counters with live := s.counters.live.set k 0 } }

/-! ### Events and stamps (06, R98; log 6, log 33) -/

/-- A new event begins: what it places comes after everything placed before. -/
def State.newEvent (s : State) : State :=
  { s with tx := { s.tx with epoch := s.tx.epoch + 1, placed := 0 } }

/-- Where an entry stands among the placements of one event: replies in the order placed, then reports in ascending
mailbox number, then the notice (06, R98). There are four reply entries, so an event places at most four replies. The whole
of a round boundary, its swap and its snapshot included, is ranked as one event (DESIGN CHOICE, log 33). -/
def Owner.rank (placed : Nat) : Owner → Nat
  | .reply _ => min placed 7
  | .report m _ => 8 + m.val
  | .notice => 40
  | .discovery => 41

/-- Puts an entry at the position of its stamp (06, R98, R103). -/
def insertEntry (e : Entry) : List Entry → List Entry
  | [] => [e]
  | x :: xs => if e.stamp < x.stamp then e :: x :: xs else x :: insertEntry e xs

/-- A placement (06, R98): a new stamp, an attempt count of 0. The stamp's rank is taken across a whole round boundary and
what raised it (DESIGN CHOICE, log 33). -/
def State.place (o : Owner) (s : State) : State :=
  let e : Entry := { owner := o, stamp := s.tx.epoch * 64 + o.rank s.tx.placed, attempts := 0 }
  { s with tx := { s.tx with
      queued := insertEntry e s.tx.queued
      placed := match o with
        | .reply _ => s.tx.placed + 1
        | .report _ _ | .notice | .discovery => s.tx.placed } }

/-- An entry back at its own stamp's position (06, R103). -/
def State.requeue (e : Entry) (s : State) : State :=
  { s with tx := { s.tx with queued := insertEntry e s.tx.queued } }

/-- Removes the queued entries an owner test picks out. -/
def State.dropQueued (p : Owner → Bool) (s : State) : State :=
  { s with tx := { s.tx with queued := s.tx.queued.filter (fun e => !p e.owner) } }

/-- The entry in flight at the bus port; a finishing frame belongs to none (06, R96; 07, R123). -/
def State.inFlight (s : State) : Option Entry :=
  match s.bus.flight with
  | some (.attempt e _) => some e
  | some (.finishing _) => none
  | none => none

/-- Whether an entry is a REPORT entry of mailbox `m`. -/
def Owner.isReportOf (m : Fin 32) : Owner → Bool
  | .report m' _ => m' == m
  | .reply _ | .notice | .discovery => false

/-- Whether an entry is a REPLY entry. -/
def Owner.isReply : Owner → Bool
  | .reply _ => true
  | .report _ _ | .notice | .discovery => false

/-- Whether an entry is the NOTICE entry. -/
def Owner.isNotice : Owner → Bool
  | .notice => true
  | .report _ _ | .reply _ | .discovery => false

/-- Whether an entry is the DISCOVERY entry. -/
def Owner.isDiscovery : Owner → Bool
  | .discovery => true
  | .report _ _ | .reply _ | .notice => false

/-- Some queued entry has such an owner. -/
def State.hasQueued (p : Owner → Bool) (s : State) : Bool := s.tx.queued.any (fun e => p e.owner)

/-- The entry in flight has such an owner. -/
def State.hasInFlight (p : Owner → Bool) (s : State) : Bool := s.inFlight.any (fun e => p e.owner)

/-- Places the REPORT entry of mailbox `m` under its current generation (06, R98). -/
def State.placeReport (m : Fin 32) (s : State) : State := s.place (.report m (s.box m).generation)

/-! ### Reply entries (06, R97) -/

/-- Writes reply entry `k`. -/
def State.setReply (k : Fin 4) (r : ReplyEntry) (s : State) : State :=
  { s with tx := { s.tx with replies := s.tx.replies.set k r } }

/-- Reply entry `k`. -/
def State.reply (s : State) (k : Fin 4) : ReplyEntry := s.tx.replies[k]

/-- Moves reply entry `k` to another state. -/
def State.markReply (k : Fin 4) (st : ReplyStatus) (s : State) : State :=
  s.setReply k { s.reply k with status := st }

/-- The lowest-numbered FREE reply entry (06, R97). -/
def State.freeReply (s : State) : Option (Fin 4) :=
  (List.finRange 4).find? (fun k => decide ((s.reply k).status = .free))

/-- The decided reply is written into entry `k`, which becomes QUEUED with a new stamp (06, R97). -/
def State.placeReply (k : Fin 4) (c : Reply) (s : State) : State :=
  (s.setReply k { status := .queued, content := c }).place (.reply k)

/-- Reply entry `k` becomes FREE because its reply has left the queue; if it held the reply to RESTART, the restart is
performed at the end of the event (06, R97; 08, R146). -/
def State.replyLeaves (k : Fin 4) (s : State) : State :=
  let s := s.setReply k ReplyEntry.blank
  if s.engine.waiting = some k then { s with restartDue := true } else s

/-! ### The read hold (08, R140) -/

/-- A store or slot arrival that alters the data of the held mailbox sets changed-since-capture (01, R5). -/
def State.touchHold (m : Fin 32) (altered : Bool) (s : State) : State :=
  if altered && s.engine.hold.valid && s.engine.hold.mailbox == m then
    { s with engine := { s.engine with hold := { s.engine.hold with changed := true } } }
  else s

/-! ### The lines -/

/-- Something goes out on the outbound ring line. -/
def State.emitRing (e : RingEmission) (s : State) : State := { s with rout := s.rout ++ [e] }

/-- The part does something on BTX. -/
def State.emitBus (e : BusEmission) (s : State) : State := { s with btx := s.btx ++ [e] }

/-- The round timer starts with the round period in force; its first expiry falls one period later (04, R57). -/
def State.startTimer (s : State) : State :=
  let p := s.active.profile.roundPeriod
  { s with ring := { s.ring with timer := some { period := p, next := s.now + 16 * p } } }

end Sys2Proof.Machine
end

