-- ==== Sys2Proof/Machine/Flags.lean ====
section
/-! DEFINITION. The flags of the notice unit: the latched set, the enable set, notice offers, the attention set
(10, R174 to R178, R182; 01, R14), and the numbers of the whole-part counters (10, R184). -/

namespace Sys2Proof.Machine

/-! ### Counters 96 to 110 -/

/-- 96: marks accepted, by either lock. -/
def Counter.marksAccepted : Fin 111 := 96
/-- 97: mark misses, including foreign marks. -/
def Counter.markMisses : Fin 111 := 97
/-- 98: LISTEN slots with a bad check. -/
def Counter.slotChecks : Fin 111 := 98
/-- 99: lock losses at a third miss. -/
def Counter.lockLosses : Fin 111 := 99
/-- 100: truncated rounds. -/
def Counter.truncated : Fin 111 := 100
/-- 101: good frames received. -/
def Counter.goodFrames : Fin 111 := 101
/-- 102: receive errors. -/
def Counter.receiveErrors : Fin 111 := 102
/-- 103: arbitration losses. -/
def Counter.arbitrationLosses : Fin 111 := 103
/-- 104: transmit errors. -/
def Counter.transmitErrors : Fin 111 := 104
/-- 105: abandons. -/
def Counter.abandons : Fin 111 := 105
/-- 106: entries into SILENT. -/
def Counter.silentEntries : Fin 111 := 106
/-- 107: requests taken. -/
def Counter.requestsTaken : Fin 111 := 107
/-- 108: requests dropped at a full request queue. -/
def Counter.requestsDropped : Fin 111 := 108
/-- 109: requests malformed. -/
def Counter.requestsMalformed : Fin 111 := 109
/-- 110: replies lost. -/
def Counter.repliesLost : Fin 111 := 110

/-! ### Conditions and offers -/

/-- The enabled latched set (10, R175). -/
def State.enabledLatched (s : State) : ConditionSet := s.notices.latched &&& s.notices.enabled

/-- An offer of a notice placement (10, R176), decided against the NOTICE entry that exists. -/
def State.offer (s : State) : State :=
  if s.hasInFlight Owner.isNotice then { s with notices := { s.notices with deferred := true } }
  else if s.hasQueued Owner.isNotice then s
  else
    let s := s.place .notice
    { s with notices := { s.notices with repeatCount := 0 } }

/-- A condition event (10, R174): the flag is set; newly set and enabled, it offers a notice (10, R176). -/
def State.latch (c : Condition) (s : State) : State :=
  if c.isIn s.notices.latched then s
  else
    let s := { s with notices := { s.notices with latched := s.notices.latched ||| c.bit } }
    if c.isIn s.notices.enabled then s.offer else s

/-- A mailbox event under attention enable sets bit m; in an empty set it is a condition event of ATTENTION
(01, R14; 10, R182). -/
def State.markAttention (m : Fin 32) (s : State) : State :=
  if (s.config m).attention then
    let empty := s.notices.attention == 0
    let s := { s with notices := { s.notices with attention := s.notices.attention ||| BitVec.twoPow 32 m.val } }
    if empty then s.latch .attention else s
  else s

/-- Clears attention bit m (09, R168). -/
def State.clearAttention (m : Fin 32) (s : State) : State :=
  { s with notices := { s.notices with attention := s.notices.attention &&& ~~~ BitVec.twoPow 32 m.val } }

/-- The NOTICE entry in flight has left by completion or abandon: a deferred offer places a new one (10, R176). -/
def State.noticeLeaves (s : State) : State :=
  if s.notices.deferred then
    ({ s with notices := { s.notices with deferred := false } } : State).offer
  else s

/-! ### Snapshots -/

/-- A snapshot (10, R185): the live bank is copied and zeroed, the sequence number advances, the interval count becomes
0 and SNAPSHOT_READY is latched. -/
def State.takeSnapshot (s : State) : State :=
  State.latch .snapshotReady { s with counters := {
    live := Vector.replicate 111 0
    snap := s.counters.live
    sequence := s.counters.sequence + 1
    interval := 0 } }

end Sys2Proof.Machine
end

