-- ==== Sys2Proof/Machine/Mailboxes.lean ====
section
/-! DEFINITION. What happens at a mailbox: the match walk, stores, drives and ageing of FEED mailboxes (02), slot
arrivals, change detection, heartbeats and class LOST of REPORT mailboxes (05). -/

namespace Sys2Proof.Machine

/-! ### FEED mailboxes -/

/-- Every identifier bit under a set mask flag agrees (02, R20). -/
def MailboxConfig.takes (c : MailboxConfig) (id : BusId) : Bool :=
  c.kind == .feed && ((c.identifier ^^^ id) &&& c.mask) == 0

/-- A store (02, R23) and, taken while FRESH, an overwrite (02, R24). -/
def State.store (f : Frame) (m : Fin 32) (s : State) : State :=
  let b := s.box m
  let data := data8Of f.bytes f.count
  let stored : Runtime := { b with state := .fresh, data := data, dataLength := f.count, age := 0 }
  let s := ((s.setBox m stored).touchHold m (b.data != data)).count (counterA m)
  if b.state = .fresh then (s.count (counterB m)).markAttention m else s

/-- The match walk in ascending number: the first that matches takes the frame, and its chain decides whether the walk
goes on past it (02, R21). -/
def State.walk (f : Frame) : List (Fin 32) → State → State
  | [], s => s
  | m :: ms, s =>
    if (s.config m).takes f.id then
      if (s.config m).chain then State.walk f ms (s.store f m) else s.store f m
    else State.walk f ms s

/-- A frame offered to the match unit (02, R18, R19). -/
def State.offerToMatch (f : Frame) (s : State) : State := s.walk f allBoxes

/-- The slot a drive of mailbox m builds (02, R26; 03, R38). -/
def State.drivenSlot (s : State) (m : Fin 32) : SlotBytes :=
  slotOf (s.box m).state.code (s.box m).dataLength (s.box m).data

/-- The drive's one effect on the mailbox: FRESH becomes HELD (02, R26). -/
def State.drive (m : Fin 32) (s : State) : State :=
  if (s.box m).state = .fresh then s.setBox m { s.box m with state := .held } else s

/-- Ageing of a FEED mailbox at a round boundary (02, R29) and its entry to STALE (02, R30). -/
def State.ageFeed (m : Fin 32) (s : State) : State :=
  let b := s.box m
  let c := s.config m
  if c.kind = .feed ∧ (b.state = .fresh ∨ b.state = .held) then
    let age := satSucc b.age
    if c.limit ≠ 0 ∧ age = c.limit then
      ((s.setBox m { b with age := age, state := .stale }).count (counterC m)).markAttention m
    else s.setBox m { b with age := age }
  else s

/-! ### REPORT mailboxes -/

/-- A trigger, by the state of the mailbox (05, R85). While an entry of an older generation is in flight, no entry is
placed yet (01, R13). -/
def State.trigger (m : Fin 32) (s : State) : State :=
  let b := s.box m
  match b.state with
  | .void | .quiet =>
    let s := s.setBox m { b with state := .pending }
    if s.hasInFlight (Owner.isReportOf m) then s else s.placeReport m
  | .pending => s.count (counterB m)
  | .sending => s.setBox m { b with again := true }
  | .fresh | .held | .stale => s

/-- The reference content of the change tests: in SENDING the content in flight, else the last sent (05, R80). -/
def Runtime.referenceContent (b : Runtime) : Content :=
  if b.state = .sending then b.captured.getD b.lastSent else b.lastSent

/-- Some byte flagged in the change mask differs (05, R82). -/
def flaggedDiffers (mask : BitVec 8) (x y : Data8) : Bool :=
  (List.finRange 8).any (fun i => mask.getLsbD i.val && x[i] != y[i])

/-- The four change tests (05, R81) on the mailbox after the event's own updates, `previous` being the class before. -/
def triggers (c : MailboxConfig) (b : Runtime) (previous : SlotClass) : Bool :=
  let ref := b.referenceContent
  let cls := b.classSeen
  let sending := decide (b.state = .sending)
  let firstSlot := !sending && decide (previous = .none)
  let back := !sending && previous.degraded && decide (cls = .live)
  let classTest := decide (cls ≠ ref.cls) && (!cls.degraded || decide (c.degraded ≠ .suppress))
  let dataTest := (!cls.degraded || decide (c.degraded = .forward)) && flaggedDiffers c.changeMask b.data ref.data
  firstSlot || back || classTest || dataTest

/-- Entry into a degraded class from LIVE or NONE marks attention (05, R91). -/
def State.degradedAttention (m : Fin 32) (previous : SlotClass) (s : State) : State :=
  if !previous.degraded && (s.box m).classSeen.degraded then s.markAttention m else s

/-- The tests an arrival or a loss ends with: a trigger if they find one, then attention (05, R77, R79). -/
def State.testChange (m : Fin 32) (previous : SlotClass) (s : State) : State :=
  let s' := if triggers (s.config m) (s.box m) previous then s.trigger m else s
  s'.degradedAttention m previous

/-- A slot arrival at a REPORT mailbox (05, R77, R78). -/
def State.slotArrives (m : Fin 32) (slot : SlotBytes) (s : State) : State :=
  let b := s.box m
  let b' : Runtime := { b with
    classSeen := SlotClass.ofSlotState (slotStateCode slot), data := slot.data, dataLength := slotLength slot }
  ((s.setBox m b').touchHold m (b.data != slot.data)).testChange m b.classSeen

/-- The class-LOST event at a mailbox (05, R79). -/
def State.classLost (m : Fin 32) (s : State) : State :=
  let b := s.box m
  (s.setBox m { b with classSeen := .lost }).testChange m b.classSeen

/-- Some LISTEN entry of the image names mailbox m, active or not (04, R71). -/
def Image.listens (i : Image) (m : Fin 32) : Bool :=
  (List.range 64).any (fun n => decide ((i.slot n).role = .listen) && (i.slot n).mailbox == m)

/-- The mailboxes a loss of lock reaches (04, R71): REPORT, named by a LISTEN entry, class neither NONE nor LOST. -/
def State.reachedByLoss (s : State) (m : Fin 32) : Bool :=
  decide ((s.config m).kind = .report) && s.active.listens m && decide ((s.box m).classSeen ≠ .none) &&
    decide ((s.box m).classSeen ≠ .lost)

/-- The ring port gives class LOST to the report mailboxes that depend on the lock (04, R71). -/
def State.giveClassLost (s : State) : State :=
  allBoxes.foldl (fun s m => if s.reachedByLoss m then s.classLost m else s) s

/-- The heartbeat test (05, R83) on the mailbox after its ageing. -/
def heartbeat (c : MailboxConfig) (b : Runtime) : Bool :=
  decide (c.limit ≠ 0) && decide (c.limit ≤ b.age) && decide (b.state = .quiet) &&
    (decide (b.classSeen = .live) || (b.classSeen.degraded && decide (c.degraded ≠ .suppress)))

/-- Ageing of a REPORT mailbox at a round boundary, with its heartbeat (05, R83; 01, R9). -/
def State.ageReport (m : Fin 32) (s : State) : State :=
  let b := s.box m
  let c := s.config m
  if c.kind = .report ∧ b.state ≠ .void then
    let b' : Runtime := { b with age := satSucc b.age }
    let s := s.setBox m b'
    if heartbeat c b' then s.trigger m else s
  else s

end Sys2Proof.Machine
end

