-- ==== Sys2Proof/Machine/Queue.lean ====
section
/-! DEFINITION. Selection, start and outcome of transmit-queue entries (06, R99 to R108; 05, R86 to R90). -/

namespace Sys2Proof.Machine

/-! ### Selection (06, R99 to R101) -/

/-- A selection is taken: the port is ready to send (07, R112), no unheard frame is on the bus (07, R124; log 15), and
an entry is queued. -/
def State.canSelect (s : State) : Bool :=
  !s.held && decide (s.bus.port = .active) && decide (s.bus.line = .idle) && s.bus.flight.isNone && !s.bus.unheard &&
    !s.tx.queued.isEmpty

/-- A queued reply is discarded: counter 110, the reply entry FREE (06, R100). -/
def State.loseReply (o : Owner) (s : State) : State :=
  match o with
  | .reply k => (s.count Counter.repliesLost).replyLeaves k
  | .report _ _ | .notice | .discovery => s

/-- The discards of a selection (06, R100). -/
def State.discard (s : State) : State :=
  if s.engine.node = 0 then
    let lost := (s.tx.queued.map (fun e => e.owner)).filter Owner.isReply
    lost.foldl (fun s o => s.loseReply o) (s.dropQueued (fun o => o.isReply || o.isNotice))
  else if s.enabledLatched = 0 then s.dropQueued Owner.isNotice
  else s

/-- The identifier of an entry at the selection (06, R101). -/
def State.identifier (s : State) : Owner → BusId
  | .report m _ => (s.config m).identifier
  | .reply _ => replyId s.engine.node
  | .notice => noticeId s.engine.node
  | .discovery => discoveryId s.engine.serial

/-- The entry of lowest identifier, the earlier of equals (06, R101); the list is in stamp order. -/
def State.lowest (s : State) (best : Entry) : List Entry → Entry
  | [] => best
  | e :: es => State.lowest s (if s.identifier e.owner < s.identifier best.owner then e else best) es

/-- The entry the queue policy chooses (06, R101). -/
def State.choose (s : State) : Option Entry :=
  match s.tx.queued with
  | [] => none
  | e :: es =>
    match s.active.profile.policy with
    | .priority => some (s.lowest e es)
    | .arrival => some e

/-! ### Start (06, R102; 05, R86) -/

/-- The data bytes of a report frame: the configured length of the buffer, or none under a degraded class that is not
FORWARDed (05, R86). -/
def reportData (c : MailboxConfig) (b : Runtime) : List Byte :=
  if !b.classSeen.degraded || c.degraded = .forward then b.data.toList.take c.length else []

/-- The data of a notice frame as they stand at the start (10, R177; 08, R153). -/
def State.noticeData (s : State) : List Byte :=
  conditionBytes s.enabledLatched ++ [s.ring.current, s.notices.sequence] ++ attentionBytes s.notices.attention

/-- The data of a discovery reply (08, R134, R153). -/
def State.discoveryData (s : State) : List Byte :=
  s.engine.serial.toList ++ [s.engine.node.setWidth 8, Config.revision]

/-- The frame captured from the owner at the start (06, R102). -/
def State.capturedFrame (s : State) (o : Owner) : Frame :=
  frameOf (s.identifier o) (match o with
    | .report m _ => reportData (s.config m) (s.box m)
    | .reply k => replyData (s.reply k).content
    | .notice => s.noticeData
    | .discovery => s.discoveryData)

/-- What the start does to the owner (06, R102; 05, R86; 10, R176). -/
def State.ownerStarts (o : Owner) (s : State) : State :=
  match o with
  | .report m _ =>
    let b := s.box m
    s.setBox m { b with
      state := .sending, again := false, captured := some { data := b.data, cls := b.classSeen } }
  | .reply k => s.markReply k .inFlight
  | .notice => { s with notices := { s.notices with deferred := false } }
  | .discovery => s

/-- The start of an entry: its frame is in flight and the bus port sends (06, R102; 07, R116). -/
def State.start (e : Entry) (s : State) : State :=
  let f := s.capturedFrame e.owner
  let s := s.ownerStarts e.owner
  let s := { s with
    tx := { s.tx with queued := s.tx.queued.filter (fun x => !decide (x = e)) }
    bus := { s.bus with line := .sending, flight := some (.attempt e f) } }
  s.emitBus (.frame f)

/-- A selection: discards, choice, start (06, R99). -/
def State.select (s : State) : State :=
  let s := s.discard
  match s.choose with
  | none => s
  | some e => s.start e

/-! ### Outcomes (06, R103 to R108) -/

/-- The frame in flight becomes absent and the line takes its next activity (07, R116). -/
def State.endAttempt (line : LineActivity) (s : State) : State :=
  { s with bus := { s.bus with line := line, flight := none } }

/-- The retirement of an older generation's entry: a PENDING mailbox gets its entry now (05, R90; 06, R108). -/
def State.retire (m : Fin 32) (s : State) : State :=
  if (s.box m).state = .pending then s.placeReport m else s

/-- The entry of the current generation goes back, its mailbox PENDING (05, R87; 06, R103). -/
def State.returnReport (m : Fin 32) (e : Entry) (s : State) : State :=
  (s.setBox m { s.box m with state := .pending, captured := none }).requeue e

/-- An entry goes back to the queue at its stamp position (06, R103), or is retired if it is an older generation's
(06, R108). -/
def State.returnEntry (e : Entry) (s : State) : State :=
  match e.owner with
  | .report m g => if g = (s.box m).generation then s.returnReport m e else s.retire m
  | .reply k => (s.markReply k .queued).requeue e
  | .notice | .discovery => s.requeue e

/-- After a report has completed or been abandoned: a new entry if the again flag is set, else QUIET (05, R88, R89). -/
def State.reportLeaves (m : Fin 32) (s : State) : State :=
  let b := s.box m
  if b.again then (s.setBox m { b with state := .pending, captured := none }).placeReport m
  else s.setBox m { b with state := .quiet, captured := none }

/-- The completion of a report of the current generation (05, R88). -/
def State.completeReport (m : Fin 32) (s : State) : State :=
  let b := s.box m
  ((s.setBox m { b with lastSent := b.captured.getD b.lastSent, age := 0 }).count (counterA m)).reportLeaves m

/-- The abandon of a report of the current generation (05, R89). -/
def State.abandonReport (m : Fin 32) (s : State) : State :=
  ((s.count (counterC m)).markAttention m).reportLeaves m

/-- An abandon, of any kind and generation (06, R106). -/
def State.abandonEntry (e : Entry) (s : State) : State :=
  let s := (s.count Counter.abandons).latch .txAbandon
  match e.owner with
  | .report m g => if g = (s.box m).generation then s.abandonReport m else s.retire m
  | .reply k => (s.count Counter.repliesLost).replyLeaves k
  | .notice => s.noticeLeaves
  | .discovery => s

/-- The queue takes a transmit error for the entry (06, R104). -/
def State.errorEntry (e : Entry) (s : State) : State :=
  let e' := { e with attempts := e.attempts + 1 }
  if e'.attempts < s.active.profile.retryLimit then s.returnEntry e' else s.abandonEntry e'

/-- The queue takes a completion for the entry (06, R105). -/
def State.completeEntry (e : Entry) (s : State) : State :=
  match e.owner with
  | .report m g => if g = (s.box m).generation then s.completeReport m else s.retire m
  | .reply k => s.replyLeaves k
  | .notice => State.noticeLeaves { s with notices := { s.notices with sequence := s.notices.sequence + 1 } }
  | .discovery => s

/-- A completed report frame is offered to the match unit when self-feed is on, whatever its generation (02, R19). -/
def State.selfFeed (e : Entry) (f : Frame) (s : State) : State :=
  match e.owner with
  | .report _ _ => if s.active.profile.selfFeed then s.offerToMatch f else s
  | .reply _ | .notice | .discovery => s

end Sys2Proof.Machine
end

