-- ==== Sys2Proof/Machine/Lock.lean ====
section
/-! DEFINITION. Ring timing and lock: truncation, misses, lock loss, the window (04, R60 to R68, R71), slots of an
accepted round (03, R46 to R54), and the master's outbound round (03, R45). -/

namespace Sys2Proof.Machine

/-! ### Rounds in progress -/

/-- A LISTEN slot with a bad check (03, R54). -/
def State.badSlot (s : State) : State := (s.count Counter.slotChecks).latch .slotCheck

/-- The round on the inbound line is handled no further; a slot being re-emitted goes out as a partial slot
(03, R52, R55; 04, R73). -/
def State.cutInbound (s : State) : State :=
  match s.ring.inRound with
  | none => s
  | some r =>
    let s := { s with ring := { s.ring with inRound := none } }
    if r.started && decide (r.use ≠ .returned) then s.emitRing (.partialSlot r.arrived) else s

/-- The master's round on the outbound line is emitted no further: the mark or the slot under way goes out in part
(03, R55). -/
def State.cutOutbound (s : State) : State :=
  match s.ring.outRound with
  | none => s
  | some o =>
    let s := { s with ring := { s.ring with outRound := none } }
    s.emitRing (if o.sending.isSome then .partialSlot (o.next - 1) else .partialMark)

/-- The slot under way is one whose check the ring port tests: a LISTEN slot of a round it reads (03, R54). -/
def State.readsSlot (s : State) (r : InRound) : Bool :=
  decide (r.use ≠ .passThrough) && decide ((s.active.slot r.arrived).role = .listen)

/-- A mark or a window close before the last announced slot truncates the accepted round: counter 100, and a LISTEN
slot cut in the middle counts as a bad check (04, R65; 03, R52; log 19, log 26). -/
def State.truncate (s : State) : State :=
  match s.ring.inRound with
  | none => s
  | some r =>
    let s := s.cutInbound.count Counter.truncated
    if r.started && s.readsSlot r then s.badSlot else s

/-! ### The lock -/

/-- The window of R62 around E, P/16 on each side, both bounds inside; the time is in microseconds. -/
def State.windowOpen (s : State) (time : Nat) : Bool :=
  match s.ring.expected, s.ring.period with
  | some e, some p => decide (16 * e ≤ 16 * time + p) && decide (16 * time ≤ 16 * e + p)
  | some _, none => false
  | none, some _ => false
  | none, none => false

/-- The close of the window, in sixteenths of a microsecond: E + P/16 (04, R62). -/
def State.windowEnd (s : State) : Option Nat :=
  match s.ring.lock, s.ring.expected, s.ring.period with
  | .locked, some e, some p => some (16 * e + p)
  | .locked, some _, none => none
  | .locked, none, _ => none
  | .hunt, _, _ => none
  | .confirm, _, _ => none

/-- The lock machine starts again in HUNT with no reference, P, E or X and a miss count of 0 (04, R64, R73, R74; the
discarded X stands at 0, log 20). -/
def State.toHunt (s : State) : State :=
  { s with ring := { s.ring with
      lock := .hunt, reference := none, period := none, expected := none, expectedNumber := 0, misses := 0 } }

/-- The loss of the lock at the third miss (04, R64, R68). -/
def State.loseLock (s : State) : State :=
  let s := s.toHunt
  let s := match s.role with
    | .follower => s.startTimer
    | .master => s
  ((s.count Counter.lockLosses).latch .ringLost).giveClassLost

/-- The effect of a miss on the miss count, E and X (04, R63): `advance` moves E on by P. -/
def State.missEffect (advance : Bool) (x : Byte) (s : State) : State :=
  let e := if advance then (s.ring.expected.bind fun e => s.ring.period.map fun p => e + p) else s.ring.expected
  let s := { s with ring := { s.ring with expected := e, expectedNumber := x, misses := s.ring.misses + 1 } }
  if Config.lossMisses ≤ s.ring.misses then s.loseLock else s

/-- A miss (04, R63): counter 97 and its effect. -/
def State.miss (advance : Bool) (x : Byte) (s : State) : State :=
  (s.count Counter.markMisses).missEffect advance x

/-- A foreign mark at a master (04, R67): RING_FOREIGN, counter 97, and in LOCKED the effect of a miss. -/
def State.foreignMark (time : Nat) (number : Byte) (s : State) : State :=
  let s := (s.latch .ringForeign).count Counter.markMisses
  match s.ring.lock with
  | .locked => s.missEffect (s.windowOpen time) (number + 1)
  | .hunt | .confirm => s

/-- A bad mark (04, R60, R61, R63): in LOCKED a miss, else discarded. -/
def State.badMark (time : Nat) (s : State) : State :=
  match s.ring.lock with
  | .locked => if s.windowOpen time then s.miss true (s.ring.expectedNumber + 1) else s.miss false s.ring.expectedNumber
  | .hunt | .confirm => s

/-- A good mark becomes the reference, and the lock state CONFIRM (04, R60, R61). -/
def State.takeReference (time : Nat) (number : Byte) (s : State) : State :=
  { s with ring := { s.ring with lock := .confirm, reference := some { number := number, time := time } } }

/-- The mark confirms the reference (04, R61; the interval is at least 1 microsecond, R56, log 21). -/
def confirms (r : Reference) (time : Nat) (number : Byte) : Bool :=
  decide (number = r.number + 1) && decide (r.time < time) && decide (time - r.time ≤ Config.longestInterval)

/-! ### Slots of an accepted round -/

/-- Slot `n` of the accepted round begins to arrive: a follower replaces it at a DRIVE entry, which is the drive
(03, R50); else nothing happens before its last byte. -/
def State.slotBegins (s : State) : State :=
  match s.ring.inRound with
  | none => s
  | some r =>
    if r.started then s
    else
      let entry := s.active.slot r.arrived
      if r.use = .follow ∧ entry.role = .drive then
        let built := s.drivenSlot entry.mailbox
        let s := { s with ring := { s.ring with inRound := some { r with started := true, driven := some built } } }
        s.drive entry.mailbox
      else { s with ring := { s.ring with inRound := some { r with started := true, driven := none } } }

/-- The slot goes out on the follower's outbound line: the replacement, or exactly what arrived (03, R49, R50, R53). -/
def State.reemit (r : InRound) (b : SlotBytes) (s : State) : State :=
  match r.use with
  | .follow => s.emitRing (.slot r.arrived (r.driven.getD b))
  | .passThrough => s.emitRing (.slot r.arrived b)
  | .returned => s

/-- A LISTEN slot is handed to its report mailbox if its check is good, else counted (03, R46, R51, R54). -/
def State.readSlot (r : InRound) (b : SlotBytes) (s : State) : State :=
  if s.readsSlot r then
    if slotGood b then s.slotArrives (s.active.slot r.arrived).mailbox b else s.badSlot
  else s

/-- The last byte of the slot under way arrives (03, R48 to R51). -/
def State.slotEnds (b : SlotBytes) (s : State) : State :=
  match s.ring.inRound with
  | none => s
  | some r =>
    if r.started then
      let next : Option InRound :=
        if r.arrived + 1 < r.slots then some { r with arrived := r.arrived + 1, started := false, driven := none }
        else none
      let s := { s with ring := { s.ring with inRound := next } }
      (s.reemit r b).readSlot r b
    else s

/-! ### The master's round -/

/-- The round number the next expiry gives (04, R59): 0 first, then one more than the last emitted. -/
def State.nextNumber (s : State) : Byte :=
  match s.ring.emitted.getLast? with
  | none => 0
  | some n => n + 1

/-- The round's mark begins to go out; its slots follow at the line rate (03, R40, R45; 04, R58, R59). -/
def State.emitRound (s : State) : State :=
  let slots := s.active.profile.slotCount.toNat
  let numbers := s.ring.emitted ++ [s.ring.current]
  { s with ring := { s.ring with
    emitted := numbers.drop (numbers.length - Config.emittedRoom)
    outRound := some {
      start := s.now, slots := slots, next := 0, mark := markOf s.ring.current slots, sending := none } } }

/-- The slot a master emits at position n (03, R45). -/
def State.masterSlot (s : State) (n : Nat) : SlotBytes :=
  match (s.active.slot n).role with
  | .drive => s.drivenSlot (s.active.slot n).mailbox
  | .pass | .listen => voidSlot

/-- The emission of slot n is a drive at a DRIVE entry (03, R45). -/
def State.masterDrive (n : Nat) (s : State) : State :=
  match (s.active.slot n).role with
  | .drive => s.drive (s.active.slot n).mailbox
  | .pass | .listen => s

/-- Whether slot instant `o.next` has come by time t: byte 4 + 10 n of the round, 0.64 microseconds a byte (03, R40).
Times are in sixteenths of a microsecond, of which 0.64 microseconds are 256/25. -/
def OutRound.dueBy (o : OutRound) (t : Nat) : Bool := decide (25 * o.start + 256 * (4 + 10 * o.next) ≤ 25 * t)

/-- A slot instant: the mark or the slot under way is out whole and the next slot begins; after the last, the round is
out. -/
def State.slotInstant (o : OutRound) (s : State) : State :=
  let s := s.emitRing (match o.sending with
    | some b => .slot (o.next - 1) b
    | none => .mark o.mark)
  if o.next < o.slots then
    let built := s.masterSlot o.next
    let s := { s with ring := { s.ring with outRound := some { o with next := o.next + 1, sending := some built } } }
    s.masterDrive o.next
  else { s with ring := { s.ring with outRound := none } }

/-- The slot instants up to time t, at most `fuel` of them. -/
def State.emitSlots (t : Nat) : Nat → State → State
  | 0, s => s
  | fuel + 1, s =>
    match s.ring.outRound with
    | none => s
    | some o => if o.dueBy t then State.emitSlots t fuel (s.slotInstant o) else s

/-- Time moves on to t: the slots due by then have gone out. A round has at most 64 slots, so 65 instants. -/
def State.advanceTo (t : Nat) (s : State) : State :=
  { s.emitSlots t 65 with now := t }

end Sys2Proof.Machine
end

