-- ==== Sys2Proof/Machine/Commit.lean ====
section
/-! DEFINITION. Commit validation (09, R164) and the swap with its effects (09, R167 to R169; 04, R72 to R74). -/

namespace Sys2Proof.Machine

/-! ### Validation (09, R164) -/

/-- The 64 slot numbers, ascending. -/
def allSlots : List Nat := List.range 64

/-- Check 1 fails at entry n: DRIVE names no FEED, or LISTEN names no REPORT. -/
def Image.wrongKind (i : Image) (n : Nat) : Bool :=
  match (i.slot n).role with
  | .drive => decide ((i.boxes[(i.slot n).mailbox]).kind ≠ .feed)
  | .listen => decide ((i.boxes[(i.slot n).mailbox]).kind ≠ .report)
  | .pass => false

/-- Entry n names a mailbox as DRIVE or LISTEN. -/
def Image.binds (i : Image) (n : Nat) : Bool := decide ((i.slot n).role ≠ .pass)

/-- Check 2 fails at entry n: a lower-numbered entry names the same mailbox. -/
def Image.namedBefore (i : Image) (n : Nat) : Bool :=
  i.binds n && (List.range n).any (fun k => i.binds k && (i.slot k).mailbox == (i.slot n).mailbox)

/-- Check 3 fails at mailbox m: FEED or REPORT with an identifier above 0xEFF. -/
def Image.highIdentifier (i : Image) (m : Fin 32) : Bool :=
  decide ((i.boxes[m]).kind ≠ .unused) && decide (lastTraffic < (i.boxes[m]).identifier)

/-- Check 4 fails: a master's round period is below the minimum for its slot count (03, R40). -/
def Image.shortPeriod (i : Image) : Bool :=
  decide (i.profile.role = .master) && decide (i.profile.roundPeriod < i.profile.slotCount.minPeriod)

/-- The first failing check and the index it reports, if any (09, R164, R165). -/
def Image.failure (i : Image) : Option (Nat × Nat) :=
  match allSlots.find? i.wrongKind with
  | some n => some (1, n)
  | none =>
    match allSlots.find? i.namedBefore with
    | some n => some (2, n)
    | none =>
      match allBoxes.find? i.highIdentifier with
      | some m => some (3, m.val)
      | none => if i.shortPeriod then some (4, i.profile.slotCount.toNat) else none

/-! ### The comparison (01, R12; 09, R168) -/

/-- The DRIVE and LISTEN entries that name mailbox m, each as its number and role. -/
def Image.bindings (i : Image) (m : Fin 32) : List (Nat × SlotRole) :=
  allSlots.filterMap (fun n =>
    if i.binds n && (i.slot n).mailbox == m then some (n, (i.slot n).role) else none)

/-- Whether a swap from one image to the other finds mailbox m changed (01, R12). -/
def changedBox (old new : Image) (m : Fin 32) : Bool :=
  decide (old.boxes[m] ≠ new.boxes[m]) || decide (old.bindings m ≠ new.bindings m)

/-- The effects of a swap on a changed mailbox (09, R168). -/
def State.resetChanged (m : Fin 32) (s : State) : State :=
  let s := s.setBox m { Runtime.reset with generation := (s.box m).generation + 1 }
  let s := ((s.zeroLive (counterA m)).zeroLive (counterB m)).zeroLive (counterC m)
  let s := (s.clearAttention m).dropQueued (Owner.isReportOf m)
  if s.engine.hold.mailbox = m then
    { s with engine := { s.engine with hold := { s.engine.hold with valid := false } } }
  else s

/-- The effects on every mailbox the swap finds changed. -/
def State.resetAllChanged (old new : Image) (s : State) : State :=
  allBoxes.foldl (fun s m => if changedBox old new m then s.resetChanged m else s) s

/-! ### Profile parameters (09, R169) -/

/-- The counts a changed interval or repeat sets to 0 (09, R169; 10, R178, R186). -/
def State.profileCounts (old new : Profile) (s : State) : State :=
  let s := if old.snapshotInterval = new.snapshotInterval then s
    else { s with counters := { s.counters with interval := 0 } }
  if old.noticeRepeat = new.noticeRepeat then s
  else { s with notices := { s.notices with repeatCount := 0 } }

/-- The lock of the old role ends: RING_LOST and class LOST if it was LOCKED, without counter 99 (04, R73, R74). -/
def State.endLock (s : State) : State :=
  match s.ring.lock with
  | .locked => (s.toHunt.latch .ringLost).giveClassLost
  | .hunt | .confirm => s.toHunt

/-- A swap from FOLLOWER to MASTER (04, R73): the round of the boundary passes through (03, R53). -/
def State.becomeMaster (s : State) : State :=
  let through := s.ring.inRound.map (fun r => { r with use := .passThrough })
  (State.endLock { s with ring := { s.ring with emitted := [], inRound := through } }).startTimer

/-- A swap from MASTER to FOLLOWER (04, R74). -/
def State.becomeFollower (s : State) : State :=
  (State.endLock { s with ring := { s.ring with emitted := [], inRound := none } }).startTimer

/-- The ring role's change, if the swap brings one; a master's returned round is read no further (03, R47; 04, R72
to R74). -/
def State.changeRole (old new : RingRole) (s : State) : State :=
  match old, new with
  | .follower, .master => s.becomeMaster
  | .master, .follower => s.becomeFollower
  | .master, .master => { s with ring := { s.ring with inRound := none } }
  | .follower, .follower => s

/-! ### The swap (09, R167) -/

/-- The session closes: staging equals active from here on (09, R155). -/
def State.closeSession (s : State) : State :=
  { s with engine := { s.engine with owner := none, idle := 0 } }

/-- The pending commit takes effect at the boundary of the given number (09, R167). -/
def State.swapCommit (c : PendingCommit) (number : Byte) (s : State) : State :=
  let old := s.active
  let new := s.staging
  let s := { s with active := new }
  let s := (s.resetAllChanged old new).profileCounts old.profile new.profile
  let s := s.closeSession
  let s := { s with engine := { s.engine with lastCommit := some c.tag, commit := none } }
  let s := s.placeReply c.entry { code := 0x0E, tag := c.tag, result := .ok, data := [number] }
  (s.latch .commitDone).changeRole old.profile.role new.profile.role

/-- The swap of whatever commit is pending. -/
def State.swapPending (number : Byte) (s : State) : State :=
  match s.engine.commit with
  | some c => s.swapCommit c number
  | none => s

end Sys2Proof.Machine
end

