-- ==== Sys2Proof/Machine/Restart.lean ====
section
/-! DEFINITION. The three resets: the performance of a restart (08, R147; 07, R123; 06, R110; 04, R76; 03, R55), the
assertion of NRESET (07, R124) and its release (11, R189; 08, R148). -/

namespace Sys2Proof.Machine

/-- At a restart the frame in flight is not cut: it becomes a finishing frame (07, R123). -/
def Flight.finish : Flight → Flight
  | .attempt _ f => .finishing f
  | .finishing f => .finishing f

/-- The performance of a restart: every block takes its reset values but the node number, the serial and the bit rate;
a frame in flight or being received goes on (08, R147; 07, R123). -/
def State.performRestart (s : State) : State :=
  let s := s.cutInbound.cutOutbound
  { State.reset with
    now := s.now
    windowClosed := s.windowClosed
    held := s.held
    ring := RingPort.reset s.now
    bus := { s.bus with port := .active, errors := 0, goods := 0, flight := s.bus.flight.map Flight.finish }
    engine := { Engine.reset with node := s.engine.node, serial := s.engine.serial }
    rout := s.rout
    btx := s.btx
    pending := s.pending }

/-- The assertion of NRESET: the lines fall idle, a frame in flight is cut, a frame being received is lost, nothing is
timed (07, R124; 04, R76; 03, R55). The blocks take their reset values at the release (log 16). -/
def State.assertReset (s : State) : State :=
  let s := s.cutInbound.cutOutbound
  let s := if s.bus.flight.isSome then s.emitBus .cut else s
  { s with
    held := true
    ring := { s.ring with timer := none }
    bus := { s.bus with
      line := .idle, flight := none, unheard := s.bus.unheard || decide (s.bus.line = .receiving) } }

/-- The release of NRESET: the straps are sampled and every block takes its reset values; a frame on the bus at that
moment is not received (11, R189; 07, R111, R124). -/
def State.releaseReset (straps : Straps) (s : State) : State :=
  { State.reset with
    now := s.now
    windowClosed := s.windowClosed
    ring := RingPort.reset s.now
    bus := { BusPort.reset with rate := BitRate.ofStraps straps, unheard := s.bus.unheard }
    engine := { Engine.reset with serial := s.engine.serial }
    rout := s.rout
    btx := s.btx
    pending := s.pending }

/-- Power is applied: the internal reset releases the part as a release of NRESET does, and an asserted NRESET holds it
on, nothing timed, until its own release (11, R189; 04, R76); `busBusy` says whether a frame of another node is then on
the bus (log 25). -/
def State.applyPower (straps : Straps) (busBusy asserted : Bool) (s : State) : State :=
  let released := State.releaseReset straps { s with bus := { s.bus with unheard := busBusy } }
  if asserted then { released with held := true, ring := { released.ring with timer := none } } else released

end Sys2Proof.Machine
end

