-- ==== Sys2Proof/Machine/Boundary.lean ====
section
/-! DEFINITION. The round boundary (04, R70): its works in the order the event brings, the steps of the table it brings
about, and what is finished before anything else happens (log 3, log 5). -/

namespace Sys2Proof.Machine

/-! ### The works (04, R70) -/

/-- The idle count of an open session, or the swap of a pending commit (09, R159, R167). -/
def State.sessionWork (s : State) : State × Option DueStep :=
  match s.engine.commit with
  | some _ => (s, some .swap)
  | none =>
    match s.engine.owner with
    | none => (s, none)
    | some _ =>
      let s := { s with engine := { s.engine with idle := s.engine.idle + 1 } }
      (s, if s.engine.idle = s.active.profile.idleLimit then some .sessionExpiry else none)

/-- The snapshot interval count (10, R186). -/
def State.snapshotWork (s : State) : State × Option DueStep :=
  if s.active.profile.snapshotInterval = 0 then (s, none)
  else
    let s := { s with counters := { s.counters with interval := s.counters.interval + 1 } }
    (s, if s.active.profile.snapshotInterval ≤ s.counters.interval then some .snapshotExpiry else none)

/-- The three conditions under which the repeat count runs (10, R178). -/
def State.repeatRuns (s : State) : Bool :=
  decide (s.active.profile.noticeRepeat ≠ 0) && decide (s.enabledLatched ≠ 0) &&
    !(s.hasQueued Owner.isNotice || s.hasInFlight Owner.isNotice)

/-- The notice repeat count (10, R178). -/
def State.repeatWork (s : State) : State × Option DueStep :=
  let n := if s.repeatRuns then s.notices.repeatCount + 1 else 0
  let s' := { s with notices := { s.notices with repeatCount := n } }
  (s', if s.repeatRuns && decide (s.active.profile.noticeRepeat * 16 ≤ n) then some .repeatExpiry else none)

/-- One work of a boundary, and the step it brings about. -/
def State.work (s : State) : BoundaryWork → State × Option DueStep
  | .feedAgeing => (allBoxes.foldl (fun s m => s.ageFeed m) s, none)
  | .reportAgeing => (allBoxes.foldl (fun s m => s.ageReport m) s, none)
  | .session => s.sessionWork
  | .snapshotCount => s.snapshotWork
  | .noticeRepeat => s.repeatWork

/-! ### The steps a boundary brings about -/

/-- A session expires (09, R159). -/
def State.expireSession (s : State) : State :=
  State.latch .sessionExpired (State.closeSession { s with staging := s.active })

/-- The notice repeat expires (10, R178). -/
def State.expireRepeat (s : State) : State :=
  let s := s.offer
  { s with notices := { s.notices with repeatCount := 0 } }

/-- The effect of a due step at the boundary of the given number. -/
def State.performDue (d : DueStep) (number : Byte) (s : State) : State :=
  match d with
  | .swap => s.swapPending number
  | .sessionExpiry => s.expireSession
  | .snapshotExpiry => s.takeSnapshot
  | .repeatExpiry => s.expireRepeat

/-! ### The course of a boundary -/

/-- A timer that raised the boundary is re-armed with the period now in force (04, R57). -/
def State.rearm (s : State) : State := if s.ring.timer.isSome then s.startTimer else s

/-- All work is done: the timer is re-armed, and a master emits the round the boundary starts, under the image now in
force (03, R44; 04, R57, R58, R74). -/
def State.closeBoundary (cause : BoundaryCause) (s : State) : State :=
  match cause with
  | .acceptedMark => s
  | .localTimer => s.rearm
  | .masterTimer =>
    let s := s.rearm
    match s.role with
    | .master => s.emitRound
    | .follower => s

/-- The works are taken in order up to one that brings about a step of the table; the boundary then waits for it. No work
and no step begins a new event, so all they place is ranked together, replies first: R98 and R184 leave that open (DESIGN
CHOICE, log 33). -/
def State.continueBoundary (number : Byte) (cause : BoundaryCause) : BoundaryOrder → State → State
  | [], s => s.closeBoundary cause
  | w :: rest, s =>
    match s.work w with
    | (s', none) => State.continueBoundary number cause rest s'
    | (s', some d) => { s' with boundary := some { number := number, cause := cause, due := d, rest := rest } }

/-- A round boundary is raised; its number becomes the current round number (04, R70). -/
def State.raiseBoundary (number : Byte) (cause : BoundaryCause) (order : BoundaryOrder) (s : State) : State :=
  State.continueBoundary number cause order.complete { s with ring := { s.ring with current := number } }

/-- The due step is taken and the boundary goes on. -/
def State.takeDue (b : Boundary) (s : State) : State :=
  (State.performDue b.due b.number { s with boundary := none }).continueBoundary b.number b.cause b.rest

/-- The rest of a boundary with every step it brings about. -/
def State.runBoundary (number : Byte) (cause : BoundaryCause) : BoundaryOrder → State → State
  | [], s => s.closeBoundary cause
  | w :: rest, s =>
    match s.work w with
    | (s', none) => State.runBoundary number cause rest s'
    | (s', some d) => State.runBoundary number cause rest (s'.performDue d number)

/-- What an event has brought about within itself is finished: the boundary in progress, and a restart whose reply has
left (08, R146; log 5). -/
def State.finish (s : State) : State :=
  let s := match s.boundary with
    | none => s
    | some b => (State.performDue b.due b.number { s with boundary := none }).runBoundary b.number b.cause b.rest
  if s.restartDue then s.performRestart else s

/-! ### The rows -/

/-- The named step of a boundary, taken when it is the step due; else no such event occurs (log 1). -/
def State.namedDue (d : DueStep) (s : State) : State :=
  match s.boundary with
  | none => s
  | some b => if b.due = d then s.takeDue b else s

/-- SWAP (09, R167). -/
def execSwap (s : State) : Host.Outcome State Fault Refusal := .next (s.namedDue .swap)

/-- SESSION_EXPIRY (09, R159). -/
def execSessionExpiry (s : State) : Host.Outcome State Fault Refusal := .next (s.namedDue .sessionExpiry)

/-- SNAPSHOT_INTERVAL_EXPIRY (10, R186). -/
def execSnapshotIntervalExpiry (s : State) : Host.Outcome State Fault Refusal := .next (s.namedDue .snapshotExpiry)

/-- NOTICE_REPEAT_EXPIRY (10, R178). -/
def execNoticeRepeatExpiry (s : State) : Host.Outcome State Fault Refusal := .next (s.namedDue .repeatExpiry)

/-- RESTART_PERFORMED (08, R147): the RESTART reply has left, or RESTART was taken in SILENT (08, R146). -/
def execRestartPerformed (s : State) : Host.Outcome State Fault Refusal :=
  .next (if s.boundary.isNone ∧ s.restartDue then s.performRestart else s)

end Sys2Proof.Machine
end

