-- ==== Sys2Proof/Machine/Requests.lean ====
section
/-! DEFINITION. The request queue (08, R126), the take of a request (08, R128, R129) and the requests of Chapter 8:
PROBE, DISCOVER, ASSIGN, READ_CONFIG, READ_MAILBOX, READ_COUNTERS, RESUME_BUS, RESTART, and the unknown and discarded
ones. -/

namespace Sys2Proof.Machine

/-! ### The request queue (08, R126) -/

/-- A request frame reaches the request queue (08, R126). -/
def State.queueRequest (broadcast : Bool) (f : Frame) (s : State) : State :=
  if f.count < 2 then s.count Counter.requestsMalformed
  else if Config.requestRoom ≤ s.engine.requests.length then
    (s.count Counter.requestsDropped).latch .reqLost
  else
    { s with engine := { s.engine with
        requests := s.engine.requests ++ [{ broadcast := broadcast, data := f.bytes }] } }

/-! ### Taking a request (08, R128) -/

/-- The conditions under which the engine takes the head of the request queue (08, R128). -/
def State.canTake (s : State) : Bool :=
  !s.held && s.engine.waiting.isNone &&
    match s.engine.requests with
    | [] => false
    | r :: _ =>
      if r.broadcast then
        !(r.code == 0x03 && (s.hasInFlight Owner.isReply || s.hasInFlight Owner.isNotice))
      else s.freeReply.isSome

/-- The head leaves the queue and counter 107 counts the take (08, R128). -/
def State.dequeue (rest : List Request) (s : State) : State :=
  State.count Counter.requestsTaken
    { s.newEvent with engine := { s.newEvent.engine with requests := rest } }

/-- A take by the row that takes the request at the head; if it is another row's, or the engine takes none, no such
event occurs (log 1). -/
def State.take (row : TakeRow) (act : Request → State → State) (s : State) : State :=
  let now := s.finish
  match now.engine.requests with
  | [] => s
  | r :: rest => if now.canTake && decide (r.row = row) then act r (now.dequeue rest) else s

/-- What a node-addressed request is answered with, and the state its action leaves. -/
structure Answer where
  result : ResultCode
  data : List Byte
  state : State

/-- OK with reply data. -/
def State.okay (data : List Byte) (s : State) : Answer := { result := .ok, data := data, state := s }

/-- Another result, without reply data, the part as it was (08, R131). -/
def State.refuse (result : ResultCode) (s : State) : Answer := { result := result, data := [], state := s }

/-- The reply that echoes the request's code and tag (08, R129). -/
def Request.echo (r : Request) (result : ResultCode) (data : List Byte) : Reply :=
  { code := r.code, tag := r.tag, result := result, data := data }

/-- A node-addressed request answered within its take: the lowest FREE reply entry is reserved, and the reply is placed
into it (08, R128, R129). -/
def State.answered (h : Request → State → Answer) (r : Request) (s : State) : State :=
  match s.freeReply with
  | none => s
  | some k =>
    let a := h r (s.markReply k .reserved)
    a.state.placeReply k (r.echo a.result a.data)

/-- A mailbox number from a byte, if it is 0 to 31. -/
def mailboxOf (b : Byte) : Option (Fin 32) := if h : b.toNat < 32 then some ⟨b.toNat, h⟩ else none

/-! ### PROBE (08, R137) -/

/-- The edit state: 0 NONE, 1 OPEN, 2 FROZEN (08, R137). -/
def State.editState (s : State) : Byte :=
  match s.engine.owner with
  | none => 0
  | some _ => if s.engine.commit.isSome then 2 else 1

/-- The answer to PROBE. -/
def answerProbe (_ : Request) (s : State) : Answer :=
  s.okay [Config.revision, s.role.code, s.ring.lock.code, s.bus.port.code,
    s.editState + (if s.enabledLatched = 0 then 0 else 16)]

/-- The take of PROBE. -/
def actProbe : Request → State → State := State.answered answerProbe

/-- PROBE. -/
def execProbe (s : State) : Host.Outcome State Fault Refusal := .next (s.take .probe actProbe)

/-! ### DISCOVER and ASSIGN (08, R133, R135) -/

/-- The take of DISCOVER: a called part places a DISCOVERY entry unless one exists. -/
def actDiscover (r : Request) (s : State) : State :=
  if r.byte 2 = 0 ∧ s.engine.node ≠ 0 then s
  else if s.hasQueued Owner.isDiscovery || s.hasInFlight Owner.isDiscovery then s
  else s.place .discovery

/-- DISCOVER. -/
def execDiscover (s : State) : Host.Outcome State Fault Refusal := .next (s.take .discover actDiscover)

/-- The reply to an ASSIGN takes the lowest FREE reply entry at its placement, or is lost (06, R97; 08, R129). -/
def State.placeFreeReply (c : Reply) (s : State) : State :=
  match s.freeReply with
  | some k => s.placeReply k c
  | none => s.count Counter.repliesLost

/-- The take of ASSIGN: a matching serial sets the node number, a non-zero one is answered, and a change from 0 offers
a notice if a latched condition is enabled (08, R135; 10, R176). -/
def actAssign (r : Request) (s : State) : State :=
  if (r.data.drop 2).take 6 = s.engine.serial.toList then
    let old := s.engine.node
    let new : BitVec 6 := r.tag.setWidth 6
    let s := { s with engine := { s.engine with node := new } }
    if new = 0 then s
    else
      let s := s.placeFreeReply { code := 0x03, tag := 0, result := .ok, data := [] }
      if old = 0 ∧ s.enabledLatched ≠ 0 then s.offer else s
  else s

/-- ASSIGN. -/
def execAssign (s : State) : Host.Outcome State Fault Refusal := .next (s.take .assign actAssign)

/-! ### READ_CONFIG (08, R138, R139) -/

/-- The value of a profile parameter by its selector (09, R163). -/
def Profile.value (p : Profile) : Nat → Nat
  | 1 => p.role.code.toNat
  | 2 => p.slotCount.toNat
  | 3 => p.roundPeriod
  | 4 => match p.policy with
    | .priority => 0
    | .arrival => 1
  | 5 => p.retryLimit
  | 6 => p.snapshotInterval
  | 7 => p.noticeRepeat
  | 8 => if p.selfFeed then 1 else 0
  | _ => p.idleLimit

/-- The reply data of a mailbox table read (08, R139). -/
def MailboxConfig.fields (c : MailboxConfig) : Nat → List Byte
  | 0 => [c.kind.code, flagByte c.chain, flagByte c.attention] ++ bytesOf c.identifier.toNat
  | 1 => bytesOf c.mask.toNat
  | _ => [BitVec.ofNat 8 c.length, c.degraded.code, c.changeMask, c.limit]

/-- The read of an image at a table, index and part: BAD_INDEX outside the table's range (08, R138, R139). -/
def Image.read (i : Image) (table index part : Nat) : Option (List Byte) :=
  match table with
  | 0 => if h : index < 32 then (if part ≤ 2 then some (MailboxConfig.fields i.boxes[index] part) else none) else none
  | 1 =>
    if index < 64 ∧ part = 0 then
      some [(i.slot index).role.code, BitVec.ofNat 8 (i.slot index).mailbox.val]
    else none
  | _ => if 1 ≤ index ∧ index ≤ 9 ∧ part = 0 then some (bytesOf (i.profile.value index)) else none

/-- The answer to READ_CONFIG. -/
def answerReadConfig (r : Request) (s : State) : Answer :=
  if r.data.length < 6 then s.refuse .badValue
  else if 1 < (r.byte 2).toNat ∨ 2 < (r.byte 3).toNat then s.refuse .badValue
  else
    let image := if r.byte 2 = 0 then s.staging else s.active
    match image.read (r.byte 3).toNat (r.byte 4).toNat (r.byte 5).toNat with
    | some data => s.okay data
    | none => s.refuse .badIndex

/-- The take of READ_CONFIG. -/
def actReadConfig : Request → State → State := State.answered answerReadConfig

/-- READ_CONFIG. -/
def execReadConfig (s : State) : Host.Outcome State Fault Refusal := .next (s.take .readConfig actReadConfig)

/-! ### READ_MAILBOX (08, R140 to R143) -/

/-- The answer to part 0 (08, R141): an UNUSED mailbox reads 0 in every byte, a FEED one in its class (01, R16; log 17).
Missing bytes and a part above 2 are refused here too (log 22). -/
def answerReadMailboxPart0 (r : Request) (s : State) : Answer :=
  if r.data.length < 4 then s.refuse .badValue
  else
    match mailboxOf (r.byte 2) with
    | none => s.refuse .badIndex
    | some m =>
      if r.byte 3 ≠ 0 then s.refuse .badIndex
      else
        let b := s.box m
        match (s.config m).kind with
        | .unused => s.okay [0, 0, 0, 0, 0]
        | .feed => s.okay [b.state.code, 0, BitVec.ofNat 8 b.dataLength, b.age, b.generation]
        | .report => s.okay [b.state.code, b.classSeen.code, BitVec.ofNat 8 b.dataLength, b.age, b.generation]

/-- The take of READ_MAILBOX part 0. -/
def actReadMailboxPart0 : Request → State → State := State.answered answerReadMailboxPart0

/-- READ_MAILBOX_PART_0. -/
def execReadMailboxPart0 (s : State) : Host.Outcome State Fault Refusal :=
  .next (s.take .readMailboxPart0 actReadMailboxPart0)

/-- The answer to part 1: the capture into the read hold (08, R142). -/
def answerCapture (r : Request) (s : State) : Answer :=
  match mailboxOf (r.byte 2) with
  | none => s.refuse .badIndex
  | some m =>
    let data := (s.box m).data
    let hold : ReadHold := { valid := true, mailbox := m, data := data, changed := false }
    State.okay (data.toList.take 5) { s with engine := { s.engine with hold := hold } }

/-- The take of READ_MAILBOX part 1. -/
def actCapture : Request → State → State := State.answered answerCapture

/-- CAPTURE. -/
def execCapture (s : State) : Host.Outcome State Fault Refusal := .next (s.take .capture actCapture)

/-- The answer to part 2: bytes 5 to 7 of the hold, its mailbox and its flag, or NO_HOLD (08, R143). -/
def answerReadMailboxPart2 (r : Request) (s : State) : Answer :=
  match mailboxOf (r.byte 2) with
  | none => s.refuse .badIndex
  | some m =>
    let h := s.engine.hold
    if h.valid ∧ h.mailbox = m then
      s.okay (h.data.toList.drop 5 ++ [BitVec.ofNat 8 h.mailbox.val, flagByte h.changed])
    else s.refuse .noHold

/-- The take of READ_MAILBOX part 2. -/
def actReadMailboxPart2 : Request → State → State := State.answered answerReadMailboxPart2

/-- READ_MAILBOX_PART_2. -/
def execReadMailboxPart2 (s : State) : Host.Outcome State Fault Refusal :=
  .next (s.take .readMailboxPart2 actReadMailboxPart2)

/-! ### READ_COUNTERS (08, R144) -/

/-- Snapshot counter k, 0 above 110 (08, R144). -/
def CounterBank.snapAt (c : CounterBank) (k : Nat) : Nat := if h : k < 111 then (c.snap[k]).toNat else 0

/-- The answer to READ_COUNTERS. -/
def answerReadCounters (r : Request) (s : State) : Answer :=
  let k := (r.byte 2).toNat
  if r.data.length < 3 then s.refuse .badValue
  else if 110 < k then s.refuse .badIndex
  else
    s.okay (bytesOf (s.counters.snapAt k) ++ bytesOf (s.counters.snapAt (k + 1)) ++ [s.counters.sequence.setWidth 8])

/-- The take of READ_COUNTERS. -/
def actReadCounters : Request → State → State := State.answered answerReadCounters

/-- READ_COUNTERS. -/
def execReadCounters (s : State) : Host.Outcome State Fault Refusal := .next (s.take .readCounters actReadCounters)

/-! ### RESUME_BUS and RESTART (08, R145, R146) -/

/-- The answer to RESUME_BUS at its take: OK, nothing changes. -/
def answerResumeBus (_ : Request) (s : State) : Answer := s.okay []

/-- The take of RESUME_BUS. -/
def actResumeBus : Request → State → State := State.answered answerResumeBus

/-- RESUME_BUS. -/
def execResumeBus (s : State) : Host.Outcome State Fault Refusal := .next (s.take .resumeBus actResumeBus)

/-- The take of RESTART (08, R146): the reply is placed and the engine waits for it; in SILENT the reservation is
released and the restart is performed in this event. -/
def actRestart (r : Request) (s : State) : State :=
  match s.freeReply with
  | none => s
  | some k =>
    match s.bus.port with
    | .active =>
      let s := s.placeReply k (r.echo .ok [])
      { s with engine := { s.engine with waiting := some k } }
    | .silent => { s with restartDue := true }

/-- RESTART. -/
def execRestart (s : State) : Host.Outcome State Fault Refusal := .next (s.take .restart actRestart)

/-! ### Unknown and discarded requests (08, R130) -/

/-- The answer to an unrecognised code. -/
def answerUnknown (_ : Request) (s : State) : Answer := s.refuse .unknown

/-- The take of an unknown request. -/
def actUnknown : Request → State → State := State.answered answerUnknown

/-- UNKNOWN_REQUEST. -/
def execUnknownRequest (s : State) : Host.Outcome State Fault Refusal := .next (s.take .unknownRequest actUnknown)

/-- The take of a broadcast request that is discarded: counter 109. -/
def actBroadcastDiscard (_ : Request) (s : State) : State := s.count Counter.requestsMalformed

/-- BROADCAST_DISCARD. -/
def execBroadcastDiscard (s : State) : Host.Outcome State Fault Refusal :=
  .next (s.take .broadcastDiscard actBroadcastDiscard)

end Sys2Proof.Machine
end

