-- ==== Sys2Proof/Machine/Edit.lean ====
section
/-! DEFINITION. Edit sessions, the SET requests, COMMIT and CANCEL (09, R155 to R166, R170). -/

namespace Sys2Proof.Machine

/-! ### The session -/

/-- The request comes from the owner of the open session (09, R156). -/
def State.fromOwner (r : Request) (s : State) : Bool := decide (s.engine.owner = some r.tag)

/-- A request from the owner sets the idle count to 0 (09, R156). -/
def State.clearIdle (s : State) : State := { s with engine := { s.engine with idle := 0 } }

/-- The tests of an edit-class request in their order: session, freeze, argument count; then the request's own
(09, R156). -/
def State.edit (need : Nat) (body : Request → State → Answer) (r : Request) (s : State) : Answer :=
  if s.fromOwner r then
    let s := s.clearIdle
    if s.engine.commit.isSome then s.refuse .busy
    else if r.data.length < need then s.refuse .badValue
    else body r s
  else s.refuse .noSession

/-- The answer to OPEN_EDIT (09, R157). -/
def answerOpenEdit (r : Request) (s : State) : Answer :=
  if r.tag = 0 then s.refuse .badValue
  else
    match s.engine.owner with
    | none => State.okay [] { s with engine := { s.engine with owner := some r.tag, idle := 0 } }
    | some t =>
      if t = r.tag then s.clearIdle.okay []
      else { result := .owned, data := [t], state := s }

/-- The take of OPEN_EDIT. -/
def actOpenEdit : Request → State → State := State.answered answerOpenEdit

/-- OPEN_EDIT. -/
def execOpenEdit (s : State) : Host.Outcome State Fault Refusal := .next (s.take .openEdit actOpenEdit)

/-- The action of CLOSE_EDIT (09, R158). -/
def bodyCloseEdit (_ : Request) (s : State) : Answer :=
  (State.closeSession { s with staging := s.active }).okay []

/-- The take of CLOSE_EDIT. -/
def actCloseEdit : Request → State → State := State.answered (State.edit 2 bodyCloseEdit)

/-- CLOSE_EDIT. -/
def execCloseEdit (s : State) : Host.Outcome State Fault Refusal := .next (s.take .closeEdit actCloseEdit)

/-! ### The SET requests (09, R160 to R163) -/

/-- Writes one mailbox configuration of the staging image. -/
def State.stageBox (m : Fin 32) (c : MailboxConfig) (s : State) : State :=
  { s with staging := { s.staging with boxes := s.staging.boxes.set m c } }

/-- The action of SET_MATCH (09, R160). -/
def bodySetMatch (r : Request) (s : State) : Answer :=
  match mailboxOf (r.byte 2) with
  | none => s.refuse .badIndex
  | some m =>
    let flags := (r.byte 3).toNat
    let identifier := numberOf (r.byte 4) (r.byte 5)
    let mask := numberOf (r.byte 6) (r.byte 7)
    match Kind.ofCode (flags % 4) with
    | none => s.refuse .badValue
    | some kind =>
      if 15 < flags ∨ 0xFFF < identifier ∨ 0xFFF < mask then s.refuse .badValue
      else
        State.okay [] (s.stageBox m { s.staging.boxes[m] with
          kind := kind
          chain := decide (flags / 4 % 2 = 1)
          attention := decide (flags / 8 % 2 = 1)
          identifier := BitVec.ofNat 12 identifier
          mask := BitVec.ofNat 12 mask })

/-- The take of SET_MATCH. -/
def actSetMatch : Request → State → State := State.answered (State.edit 8 bodySetMatch)

/-- SET_MATCH. -/
def execSetMatch (s : State) : Host.Outcome State Fault Refusal := .next (s.take .setMatch actSetMatch)

/-- The action of SET_TIMING (09, R161). -/
def bodySetTiming (r : Request) (s : State) : Answer :=
  match mailboxOf (r.byte 2) with
  | none => s.refuse .badIndex
  | some m =>
    if 8 < (r.byte 3).toNat then s.refuse .badValue
    else
      match Degraded.ofCode (r.byte 4).toNat with
      | none => s.refuse .badValue
      | some degraded =>
        State.okay [] (s.stageBox m { s.staging.boxes[m] with
          length := (r.byte 3).toNat
          degraded := degraded
          changeMask := r.byte 5
          limit := r.byte 6 })

/-- The take of SET_TIMING. -/
def actSetTiming : Request → State → State := State.answered (State.edit 7 bodySetTiming)

/-- SET_TIMING. -/
def execSetTiming (s : State) : Host.Outcome State Fault Refusal := .next (s.take .setTiming actSetTiming)

/-- Writes one slot entry of the staging image. -/
def State.stageSlot (n : Fin 64) (e : SlotEntry) (s : State) : State :=
  { s with staging := { s.staging with slots := s.staging.slots.set n e } }

/-- The action of SET_SLOT (09, R162). -/
def bodySetSlot (r : Request) (s : State) : Answer :=
  if h : (r.byte 2).toNat < 64 then
    match SlotRole.ofCode (r.byte 3).toNat with
    | none => s.refuse .badValue
    | some role =>
      match mailboxOf (r.byte 4) with
      | none => s.refuse .badIndex
      | some m => State.okay [] (s.stageSlot ⟨(r.byte 2).toNat, h⟩ { role := role, mailbox := m })
  else s.refuse .badIndex

/-- The take of SET_SLOT. -/
def actSetSlot : Request → State → State := State.answered (State.edit 5 bodySetSlot)

/-- SET_SLOT. -/
def execSetSlot (s : State) : Host.Outcome State Fault Refusal := .next (s.take .setSlot actSetSlot)

/-- A value in a range, for the parameter it sets. -/
def ranged (lo hi v : Nat) (p : Profile) : Option Profile := if lo ≤ v ∧ v ≤ hi then some p else none

/-- The profile with a parameter set, if the value is in the parameter's range (09, R163). -/
def Profile.set (p : Profile) (selector v : Nat) : Option Profile :=
  match selector with
  | 1 => ranged 0 1 v { p with role := if v = 0 then .follower else .master }
  | 2 => (SlotCount.ofNumber v).map (fun c => { p with slotCount := c })
  | 3 => ranged 56 65535 v { p with roundPeriod := v }
  | 4 => ranged 0 1 v { p with policy := if v = 0 then .priority else .arrival }
  | 5 => ranged 1 15 v { p with retryLimit := v }
  | 6 => ranged 0 65535 v { p with snapshotInterval := v }
  | 7 => ranged 0 255 v { p with noticeRepeat := v }
  | 8 => ranged 0 1 v { p with selfFeed := decide (v = 1) }
  | _ => ranged 16 65535 v { p with idleLimit := v }

/-- The action of SET_PROFILE (09, R163). -/
def bodySetProfile (r : Request) (s : State) : Answer :=
  let selector := (r.byte 2).toNat
  if 1 ≤ selector ∧ selector ≤ 9 then
    match s.staging.profile.set selector (numberOf (r.byte 3) (r.byte 4)) with
    | none => s.refuse .badValue
    | some p => State.okay [] { s with staging := { s.staging with profile := p } }
  else s.refuse .badIndex

/-- The take of SET_PROFILE. -/
def actSetProfile : Request → State → State := State.answered (State.edit 5 bodySetProfile)

/-- SET_PROFILE. -/
def execSetProfile (s : State) : Host.Outcome State Fault Refusal := .next (s.take .setProfile actSetProfile)

/-! ### COMMIT and CANCEL (09, R164 to R166, R170) -/

/-- The take of COMMIT: a refusal is answered at once; an accepted commit keeps its reply entry RESERVED and the session
becomes FROZEN (09, R164 to R166). -/
def actCommit (r : Request) (s : State) : State :=
  match s.freeReply with
  | none => s
  | some k =>
    let s := s.markReply k .reserved
    if s.fromOwner r then
      let s := s.clearIdle
      if s.engine.commit.isSome then s.placeReply k (r.echo .busy [])
      else
        match s.staging.failure with
        | some (check, index) =>
          s.placeReply k (r.echo .inconsistent [BitVec.ofNat 8 check, BitVec.ofNat 8 index])
        | none => { s with engine := { s.engine with commit := some { tag := r.tag, entry := k } } }
    else s.placeReply k (r.echo .noSession [])

/-- COMMIT. -/
def execCommit (s : State) : Host.Outcome State Fault Refusal := .next (s.take .commit actCommit)

/-- The answer to CANCEL (09, R170): a withdrawn commit's CANCELLED reply is placed before CANCEL's own. -/
def answerCancel (r : Request) (s : State) : Answer :=
  match s.engine.owner with
  | some t =>
    if t = r.tag then
      let s := s.clearIdle
      match s.engine.commit with
      | some c =>
        let s := s.placeReply c.entry { code := 0x0E, tag := c.tag, result := .cancelled, data := [] }
        State.okay [] { s with engine := { s.engine with commit := none } }
      | none => s.refuse .nothing
    else s.refuse .noSession
  | none => if s.engine.lastCommit = some r.tag then s.refuse .tooLate else s.refuse .noSession

/-- The take of CANCEL. -/
def actCancel : Request → State → State := State.answered answerCancel

/-- CANCEL. -/
def execCancel (s : State) : Host.Outcome State Fault Refusal := .next (s.take .cancel actCancel)

end Sys2Proof.Machine
end

