-- ==== Sys2Proof/Machine/Notices.lean ====
section
/-! DEFINITION. The requests of Chapter 10: SNAPSHOT, READ_NOTICES, ACK_NOTICES, SET_NOTICE_ENABLE, READ_ATTENTION
(10, R179 to R183, R187). -/

namespace Sys2Proof.Machine

/-- The answer to a node-addressed SNAPSHOT (10, R187). -/
def answerSnapshot (_ : Request) (s : State) : Answer :=
  let s := s.takeSnapshot
  s.okay (bytesOf s.counters.sequence.toNat)

/-- The take of SNAPSHOT in both addressings (10, R187). -/
def actSnapshot (r : Request) (s : State) : State :=
  if r.broadcast then s.takeSnapshot else s.answered answerSnapshot r

/-- SNAPSHOT. -/
def execSnapshot (s : State) : Host.Outcome State Fault Refusal := .next (s.take .snapshot actSnapshot)

/-- The answer to READ_NOTICES (10, R179). -/
def answerReadNotices (_ : Request) (s : State) : Answer :=
  s.okay (conditionBytes s.notices.latched ++ conditionBytes s.notices.enabled)

/-- The take of READ_NOTICES. -/
def actReadNotices : Request → State → State := State.answered answerReadNotices

/-- READ_NOTICES. -/
def execReadNotices (s : State) : Host.Outcome State Fault Refusal := .next (s.take .readNotices actReadNotices)

/-- The answer to ACK_NOTICES (10, R180). -/
def answerAckNotices (r : Request) (s : State) : Answer :=
  if r.data.length < 4 then s.refuse .badValue
  else if 31 < (r.byte 3).toNat then s.refuse .badValue
  else
    let left := s.notices.latched &&& ~~~ conditionsOf (r.byte 2) (r.byte 3)
    State.okay (conditionBytes left) { s with notices := { s.notices with latched := left } }

/-- The take of ACK_NOTICES. -/
def actAckNotices : Request → State → State := State.answered answerAckNotices

/-- ACK_NOTICES. -/
def execAckNotices (s : State) : Host.Outcome State Fault Refusal := .next (s.take .ackNotices actAckNotices)

/-- The answer to SET_NOTICE_ENABLE (10, R181): one offer if a latched condition becomes enabled. -/
def answerSetNoticeEnable (r : Request) (s : State) : Answer :=
  if r.data.length < 4 then s.refuse .badValue
  else if 31 < (r.byte 3).toNat then s.refuse .badValue
  else
    let old := s.notices.enabled
    let new := conditionsOf (r.byte 2) (r.byte 3)
    let s := { s with notices := { s.notices with enabled := new } }
    if new &&& ~~~ old &&& s.notices.latched = 0 then s.okay [] else s.offer.okay []

/-- The take of SET_NOTICE_ENABLE. -/
def actSetNoticeEnable : Request → State → State := State.answered answerSetNoticeEnable

/-- SET_NOTICE_ENABLE. -/
def execSetNoticeEnable (s : State) : Host.Outcome State Fault Refusal :=
  .next (s.take .setNoticeEnable actSetNoticeEnable)

/-- The answer to READ_ATTENTION (10, R183): the set is returned and cleared within the one event. -/
def answerReadAttention (_ : Request) (s : State) : Answer :=
  State.okay (attentionBytes s.notices.attention) { s with notices := { s.notices with attention := 0 } }

/-- The take of READ_ATTENTION. -/
def actReadAttention : Request → State → State := State.answered answerReadAttention

/-- READ_ATTENTION. -/
def execReadAttention (s : State) : Host.Outcome State Fault Refusal :=
  .next (s.take .readAttention actReadAttention)

end Sys2Proof.Machine
end

