-- ==== Sys2Proof/Machine/Schedule.lean ====
section
/-! DEFINITION. When events may happen (log 1 to log 3): the internal steps take no time and are performed before time
moves on, an event in time comes before every deadline not yet taken, and the master's slots go out as time passes. -/

namespace Sys2Proof.Machine

/-- What a take does, by its row. -/
def TakeRow.act : TakeRow → Request → State → State
  | .probe => actProbe
  | .discover => actDiscover
  | .assign => actAssign
  | .readConfig => actReadConfig
  | .readMailboxPart0 => actReadMailboxPart0
  | .capture => actCapture
  | .readMailboxPart2 => actReadMailboxPart2
  | .readCounters => actReadCounters
  | .resumeBus => actResumeBus
  | .restart => actRestart
  | .openEdit => actOpenEdit
  | .closeEdit => actCloseEdit
  | .setMatch => actSetMatch
  | .setTiming => actSetTiming
  | .setSlot => actSetSlot
  | .setProfile => actSetProfile
  | .commit => actCommit
  | .cancel => actCancel
  | .snapshot => actSnapshot
  | .readNotices => actReadNotices
  | .ackNotices => actAckNotices
  | .setNoticeEnable => actSetNoticeEnable
  | .readAttention => actReadAttention
  | .unknownRequest => actUnknown
  | .broadcastDiscard => actBroadcastDiscard

/-- The take of the request at the head, by the row that takes it. -/
def State.takeHead (s : State) : State :=
  match s.engine.requests with
  | [] => s
  | r :: rest => r.row.act r (s.dequeue rest)

/-- No internal step is possible: nothing unfinished, no selection, no take. Such a state waits for the outside. -/
def State.quiet (s : State) : Bool :=
  s.boundary.isNone && !s.restartDue && !s.canSelect && !s.canTake

/-- The internal steps that are possible, a selection before a take (log 3), at most `fuel` of them. -/
def State.settleBy : Nat → State → State
  | 0, s => s.finish
  | fuel + 1, s =>
    let s := s.finish
    if s.canSelect then State.settleBy fuel s.newEvent.select
    else if s.canTake then State.settleBy fuel s.takeHead
    else s

/-- The internal steps until none is possible. A take removes a request and a selection empties the queue or starts a
frame, so twice the waiting requests and a few more are enough. -/
def State.settle (s : State) : State := s.settleBy (2 * s.engine.requests.length + 8)

/-- An event at time t (sixteenths of a microsecond) is in order: not before now, and no timer expiry or window close
before it is still to be taken (04, R57, R62; log 2). Under reset nothing is timed (04, R76). -/
def State.inOrder (t : Nat) (s : State) : Bool :=
  decide (s.now ≤ t) &&
    (s.held || ((match s.ring.timer with
      | some timer => decide (t ≤ timer.next)
      | none => true) &&
      (match s.windowEnd with
      | some w => decide (t ≤ w)
      | none => true)))

/-- The part as an event at time t finds it: at the same instant only what is unfinished is finished; before a later
one every internal step has been taken (log 3). -/
def State.ripe (t : Nat) (s : State) : State := if t = s.now then s.finish else s.settle

/-- An event at time t: out of order, or ruled out by the part's state (`occurs`), it does not occur (log 1); else time
has moved on to t and it has its effect. -/
def State.atTime (t : Nat) (occurs : State → Bool) (effect : State → State) (s : State) : State :=
  let ready := s.ripe t
  if ready.inOrder t && occurs ready then effect (ready.advanceTo t).newEvent else s

/-- The time of a deadline the part keeps itself: now, if it has come already; else as it stands when every internal
step has been taken. -/
def State.deadline (find : State → Option Nat) (s : State) : Option Nat :=
  if find s.finish = some s.now then some s.now else find s.settle

/-- The time of an event given in microseconds. -/
def ticks (time : Nat) : Nat := 16 * time

end Sys2Proof.Machine
end

