-- ==== Sys2Proof/Machine/Pins.lean ====
section
/-! DEFINITION. The rows of the supply and reset pins: POWER_ON, NRESET_ASSERT, NRESET_RELEASE (07, R124; 11, R189). -/

namespace Sys2Proof.Machine

/-- POWER_ON (11, R189). A part that was running lost its power at its last event, so none of its timers holds the
event back (log 25). `held` is the level of NRESET, which power does not change. -/
def execPowerOn (time : Nat) (straps : Straps) (busBusy : Bool) (s : State) : Host.Outcome State Fault Refusal :=
  .next (if s.now ≤ ticks time then
      State.applyPower straps busBusy s.held { s.finish.assertReset with now := ticks time }
    else s)

/-- NRESET_ASSERT (07, R124): while it is asserted already there is no assertion. -/
def execNresetAssert (time : Nat) (s : State) : Host.Outcome State Fault Refusal :=
  .next (s.atTime (ticks time) (fun s => !s.held) State.assertReset)

/-- NRESET_RELEASE (11, R189): only an asserted NRESET is released. -/
def execNresetRelease (time : Nat) (straps : Straps) (s : State) : Host.Outcome State Fault Refusal :=
  .next (s.atTime (ticks time) (fun s => s.held) (State.releaseReset straps))

end Sys2Proof.Machine
end

