-- ==== Sys2Proof/Machine/BusEvents.lean ====
section
/-! DEFINITION. The rows of the bus port and the transmit queue: FRAME_START, FRAME_ARRIVAL, SELECTION and the outcomes
of an attempt (07, R113 to R123; 06, R99). -/

namespace Sys2Proof.Machine

/-! ### Reception (07, R113 to R115, R121, R122) -/

/-- Another node's frame can begin: the line is IDLE and no frame is on the bus unheard. -/
def State.lineFree (s : State) : Bool := decide (s.bus.line = .idle) && !s.bus.unheard

/-- Another node's frame begins: the line is RECEIVING; under reset it is not received (07, R113, R124). -/
def State.frameBegins (s : State) : State :=
  if s.held then { s with bus := { s.bus with unheard := true } }
  else { s with bus := { s.bus with line := .receiving } }

/-- The port leaves SILENT (07, R121). -/
def State.leaveSilent (s : State) : State :=
  match s.bus.port with
  | .silent => State.latch .busResumed { s with bus := { s.bus with port := .active, errors := 0, goods := 0 } }
  | .active => s

/-- A good reception in SILENT adds to the good-frame count, and the 64th ends SILENT (07, R121). -/
def State.countGood (s : State) : State :=
  match s.bus.port with
  | .silent =>
    let s := { s with bus := { s.bus with goods := s.bus.goods + 1 } }
    if Config.resumeGoods ≤ s.bus.goods then s.leaveSilent else s
  | .active => s

/-- The RESUME_BUS fast path: a node request of at least 2 bytes with code 0x18 ends SILENT (07, R122). -/
def State.fastPath (f : Frame) (s : State) : State :=
  if 2 ≤ f.count ∧ f.bytes.getD 0 0 = 0x18 then s.leaveSilent else s

/-- The classification of a good reception (07, R114). -/
def State.classify (f : Frame) (s : State) : State :=
  if f.id ≤ lastTraffic then s.offerToMatch f
  else if f.id = broadcastId then s.queueRequest true f
  else if s.engine.node ≠ 0 ∧ f.id = requestId s.engine.node then (s.fastPath f).queueRequest false f
  else s

/-- The acknowledge at the frame's end, by the port state before the frame's own effects (07, R115). -/
def State.acknowledge (s : State) : State :=
  match s.bus.port with
  | .active => s.emitBus .acknowledge
  | .silent => s

/-- A good reception (07, R113). -/
def State.goodReception (f : Frame) (s : State) : State :=
  ((s.acknowledge.count Counter.goodFrames).countGood).classify f

/-- A reception error (07, R113); in SILENT it sets the good-frame count to 0 (07, R121). -/
def State.receptionError (s : State) : State :=
  let s := s.count Counter.receiveErrors
  match s.bus.port with
  | .silent => { s with bus := { s.bus with goods := 0 } }
  | .active => s

/-- A frame of another node is on the bus. -/
def State.frameOnBus (s : State) : Bool := decide (s.bus.line = .receiving) || s.bus.unheard

/-- The end of another node's frame. One that is not received ends without a trace (07, R124). -/
def State.frameEnds (r : Reception) (s : State) : State :=
  if s.bus.unheard then { s with bus := { s.bus with unheard := false } }
  else
    let s := { s with bus := { s.bus with line := .idle } }
    match r with
    | .good f => s.goodReception f
    | .error => s.receptionError

/-- FRAME_START (07, R113). -/
def execFrameStart (time : Nat) (s : State) : Host.Outcome State Fault Refusal :=
  .next (s.atTime (ticks time) State.lineFree State.frameBegins)

/-- FRAME_ARRIVAL (07, R113). -/
def execFrameArrival (time : Nat) (r : Reception) (s : State) : Host.Outcome State Fault Refusal :=
  .next (s.atTime (ticks time) State.frameOnBus (State.frameEnds r))

/-! ### Selection (06, R99) -/

/-- SELECTION (06, R99): taken when the port is ready to send and an entry is queued. -/
def execSelection (s : State) : Host.Outcome State Fault Refusal :=
  let ready := s.finish
  .next (if ready.canSelect then ready.newEvent.select else s)

/-! ### Outcomes (07, R117 to R120, R123) -/

/-- An attempt of the part's own is under way (07, R116). -/
def State.attempting (s : State) : Bool := s.inFlight.isSome

/-- Another node with this identifier can win the bus from the attempt: it is lower (07, R117). -/
def State.outranked (winner : BusId) (s : State) : Bool :=
  match s.bus.flight with
  | some (.attempt _ f) => decide (winner < f.id)
  | some (.finishing f) => decide (winner < f.id)
  | none => false

/-- A finishing frame is on the bus (07, R123). -/
def State.finishing (s : State) : Bool :=
  match s.bus.flight with
  | some (.finishing _) => true
  | some (.attempt _ _) => false
  | none => false

/-- Arbitration lost (07, R117): another node's lower identifier keeps the bus and its frame is received. -/
def State.loseArbitration (s : State) : State :=
  match s.inFlight with
  | some e => ((s.endAttempt .receiving).count Counter.arbitrationLosses).returnEntry e
  | none => s

/-- The 32nd transmit error in a row brings SILENT (07, R120). -/
def State.enterSilent (s : State) : State :=
  State.latch .busSilent
    (State.count Counter.silentEntries { s with bus := { s.bus with port := .silent, goods := 0 } })

/-- Transmit error (07, R118): counted, taken by the queue, and then SILENT if it is the 32nd in a row. -/
def State.failAttempt (s : State) : State :=
  match s.inFlight with
  | some e =>
    let s := (s.endAttempt .idle).count Counter.transmitErrors
    let s := { s with bus := { s.bus with errors := s.bus.errors + 1 } }
    let s := s.errorEntry e
    if s.bus.errors = Config.silentErrors then s.enterSilent else s
  | none => s

/-- Completion (07, R119): the run of errors ends, the queue takes the outcome, a report frame may be self-fed. -/
def State.completeAttempt (s : State) : State :=
  match s.bus.flight with
  | some (.attempt e f) =>
    let s := s.endAttempt .idle
    let s := { s with bus := { s.bus with errors := 0 } }
    (s.completeEntry e).selfFeed e f
  | some (.finishing _) => s
  | none => s

/-- The line activity after the outcome of a finishing frame: after an arbitration loss the winning frame is received
(07, R123). -/
def lineAfter : AttemptOutcome → LineActivity
  | .arbitrationLost => .receiving
  | .transmitError => .idle
  | .completion => .idle

/-- ARBITRATION_LOST (07, R117). -/
def execArbitrationLost (time : Nat) (winner : BusId) (s : State) : Host.Outcome State Fault Refusal :=
  .next (s.atTime (ticks time) (fun s => s.attempting && s.outranked winner) State.loseArbitration)

/-- TRANSMIT_ERROR (07, R118). -/
def execTransmitError (time : Nat) (s : State) : Host.Outcome State Fault Refusal :=
  .next (s.atTime (ticks time) State.attempting State.failAttempt)

/-- COMPLETION (07, R119). -/
def execCompletion (time : Nat) (s : State) : Host.Outcome State Fault Refusal :=
  .next (s.atTime (ticks time) State.attempting State.completeAttempt)

/-- FINISHING_FRAME_OUTCOME (07, R123): the outcome is discarded. -/
def execFinishingFrameOutcome (time : Nat) (o : AttemptOutcome) (s : State) : Host.Outcome State Fault Refusal :=
  .next (s.atTime (ticks time) State.finishing (State.endAttempt (lineAfter o)))

end Sys2Proof.Machine
end

