-- ==== Sys2Proof/Machine/RingEvents.lean ====
section
/-! DEFINITION. The rows of the ring port: marks, window closes, slots and the two uses of the round timer (04, R58 to
R69; 03, R48 to R54). -/

namespace Sys2Proof.Machine

/-! ### Marks (04, R60 to R67) -/

/-- The accepted round begins on the inbound line (03, R40, R46, R48). -/
def State.openRound (m : RoundMark) (use : RoundUse) (s : State) : State :=
  let round : InRound :=
    { slots := (markSlots m).getD 0, arrived := 0, started := false, driven := none, use := use }
  { s with ring := { s.ring with inRound := some round } }

/-- A mark is accepted (04, R62): at a follower it is re-emitted and raises a round boundary; at a master it does
neither (04, R66). Counter 96 counts the mark before the works of its boundary, a snapshot among them: R184 leaves that
order open (DESIGN CHOICE, log 31). -/
def State.acceptMark (time : Nat) (m : RoundMark) (order : BoundaryOrder) (s : State) : State :=
  let s := { s with ring := { s.ring with
    expected := s.ring.period.map (fun p => time + p), expectedNumber := m.number + 1, misses := 0 } }
  let s := s.count Counter.marksAccepted
  match s.role with
  | .follower => ((s.openRound m .follow).emitRing (.mark m)).raiseBoundary m.number .acceptedMark order
  | .master => s.openRound m .returned

/-- The confirming mark brings LOCKED with P the measured interval (04, R61); a follower's local round timer stops, a
master's round timer goes on (04, R66). -/
def State.enterLocked (period : Nat) (s : State) : State :=
  let s := { s with ring := { s.ring with lock := .locked, period := some period } }
  let s := match s.role with
    | .follower => { s with ring := { s.ring with timer := none } }
    | .master => s
  s.latch .ringLocked

/-- A good mark that is not foreign, by the lock state (04, R60 to R63). -/
def State.judgeMark (time : Nat) (m : RoundMark) (order : BoundaryOrder) (s : State) : State :=
  match s.ring.lock with
  | .hunt => s.takeReference time m.number
  | .confirm =>
    match s.ring.reference with
    | some r =>
      if confirms r time m.number then (s.enterLocked (time - r.time)).acceptMark time m order
      else s.takeReference time m.number
    | none => s.takeReference time m.number
  | .locked =>
    if s.windowOpen time then
      if m.number = s.ring.expectedNumber then s.acceptMark time m order else s.miss true (m.number + 1)
    else s.miss false (m.number + 1)

/-- A mark arrives on RIN (04, R62): it cuts a round whose slots have not all arrived, and is judged. The truncation's
counts, counter 100 and for a cut LISTEN slot counter 98 with SLOT_CHECK, stand before the works of a boundary the mark
raises, an interval snapshot among them: R184 leaves that order open (DESIGN CHOICE, log 31). -/
def State.markArrives (time : Nat) (m : RoundMark) (order : BoundaryOrder) (s : State) : State :=
  if s.held then s
  else
    let s := s.truncate
    if markGood m then
      match s.role with
      | .master => if s.ring.emitted.contains m.number then s.judgeMark time m order else s.foreignMark time m.number
      | .follower => s.judgeMark time m order
    else s.badMark time

/-- A mark can arrive at a time: no window has closed empty then, for a close at the bound of its window is taken after
a mark that arrives there (04, R62; log 32). -/
def State.markMayArrive (time : Nat) (s : State) : Bool := decide (s.windowClosed ≠ some (ticks time))

/-- ROUND_MARK_ARRIVAL (04, R62). -/
def execRoundMarkArrival (time : Nat) (m : RoundMark) (order : BoundaryOrder) (s : State) :
    Host.Outcome State Fault Refusal :=
  .next (s.atTime (ticks time) (State.markMayArrive time) (State.markArrives time m order))

/-- The window closes with no mark inside it: a round not complete is truncated, and it is a miss (04, R63, R65). -/
def State.windowCloses (s : State) : State :=
  let s := State.truncate { s with windowClosed := some s.now }
  s.miss true (s.ring.expectedNumber + 1)

/-- WINDOW_CLOSE (04, R63): at E + P/16. -/
def execWindowClose (s : State) : Host.Outcome State Fault Refusal :=
  .next (match s.deadline State.windowEnd with
    | none => s
    | some w => s.atTime w (fun s => !s.held && decide (s.windowEnd = some w)) State.windowCloses)

/-! ### Slots (03, R50, R51) -/

/-- A slot can begin: none of the accepted round is under way; outside an accepted round slots pass unread. -/
def State.slotMayBegin (s : State) : Bool := s.ring.inRound.all (fun r => !r.started)

/-- A slot can end: that of the accepted round is under way; outside an accepted round slots pass unread. -/
def State.slotMayEnd (s : State) : Bool := s.ring.inRound.all (fun r => r.started)

/-- INCOMING_SLOT_START (03, R50). -/
def execIncomingSlotStart (time : Nat) (s : State) : Host.Outcome State Fault Refusal :=
  .next (s.atTime (ticks time) State.slotMayBegin State.slotBegins)

/-- SLOT_ARRIVAL (03, R51). -/
def execSlotArrival (time : Nat) (b : SlotBytes) (s : State) : Host.Outcome State Fault Refusal :=
  .next (s.atTime (ticks time) State.slotMayEnd (State.slotEnds b))

/-! ### The round timer (04, R57, R58, R69) -/

/-- The first expiry of a new master drops the slots of the round passing through (04, R73). -/
def State.dropThrough (s : State) : State :=
  match s.ring.inRound with
  | some r => if r.use = .passThrough then s.cutInbound else s
  | none => s

/-- The master round timer expires (04, R58): a round still passing through is cut (04, R73), the round gets its number
and the boundary is raised. -/
def State.masterExpiry (order : BoundaryOrder) (s : State) : State :=
  s.dropThrough.raiseBoundary s.nextNumber .masterTimer order

/-- The local round timer expires (04, R69). -/
def State.localExpiry (order : BoundaryOrder) (s : State) : State :=
  s.raiseBoundary (s.ring.current + 1) .localTimer order

/-- The next expiry of the round timer. -/
def State.nextExpiry (s : State) : Option Nat := s.ring.timer.map (fun t => t.next)

/-- An expiry of the round timer in a role, at the expiry's own time (04, R57). -/
def State.expire (role : RingRole) (effect : State → State) (s : State) : State :=
  match s.deadline State.nextExpiry with
  | none => s
  | some t => s.atTime t (fun s => !s.held && decide (s.role = role) && decide (s.nextExpiry = some t)) effect

/-- ROUND_TIMER_EXPIRY (04, R58). -/
def execRoundTimerExpiry (order : BoundaryOrder) (s : State) : Host.Outcome State Fault Refusal :=
  .next (s.expire .master (State.masterExpiry order))

/-- LOCAL_ROUND_TIMER_EXPIRY (04, R69). -/
def execLocalRoundTimerExpiry (order : BoundaryOrder) (s : State) : Host.Outcome State Fault Refusal :=
  .next (s.expire .follower (State.localExpiry order))

end Sys2Proof.Machine
end

