-- ==== Sys2Proof/Machine/Dispatch.lean ====
section
/-! DEFINITION. The meaning of every command: one arm per row of spec/opcode_table.json. -/

namespace Sys2Proof.Machine

def exec (i : Instr) (s : State) : Host.Outcome State Fault Refusal :=
  match i with
  | .powerOn time straps busBusy => Sys2Proof.Machine.execPowerOn time straps busBusy s
  | .nresetAssert time => Sys2Proof.Machine.execNresetAssert time s
  | .nresetRelease time straps => Sys2Proof.Machine.execNresetRelease time straps s
  | .frameStart time => Sys2Proof.Machine.execFrameStart time s
  | .frameArrival time reception => Sys2Proof.Machine.execFrameArrival time reception s
  | .selection => Sys2Proof.Machine.execSelection s
  | .arbitrationLost time winner => Sys2Proof.Machine.execArbitrationLost time winner s
  | .transmitError time => Sys2Proof.Machine.execTransmitError time s
  | .completion time => Sys2Proof.Machine.execCompletion time s
  | .finishingFrameOutcome time outcome => Sys2Proof.Machine.execFinishingFrameOutcome time outcome s
  | .roundMarkArrival time mark order => Sys2Proof.Machine.execRoundMarkArrival time mark order s
  | .windowClose => Sys2Proof.Machine.execWindowClose s
  | .incomingSlotStart time => Sys2Proof.Machine.execIncomingSlotStart time s
  | .slotArrival time slot => Sys2Proof.Machine.execSlotArrival time slot s
  | .roundTimerExpiry order => Sys2Proof.Machine.execRoundTimerExpiry order s
  | .localRoundTimerExpiry order => Sys2Proof.Machine.execLocalRoundTimerExpiry order s
  | .swap => Sys2Proof.Machine.execSwap s
  | .sessionExpiry => Sys2Proof.Machine.execSessionExpiry s
  | .snapshotIntervalExpiry => Sys2Proof.Machine.execSnapshotIntervalExpiry s
  | .noticeRepeatExpiry => Sys2Proof.Machine.execNoticeRepeatExpiry s
  | .restartPerformed => Sys2Proof.Machine.execRestartPerformed s
  | .probe => Sys2Proof.Machine.execProbe s
  | .discover => Sys2Proof.Machine.execDiscover s
  | .assign => Sys2Proof.Machine.execAssign s
  | .readConfig => Sys2Proof.Machine.execReadConfig s
  | .readMailboxPart0 => Sys2Proof.Machine.execReadMailboxPart0 s
  | .capture => Sys2Proof.Machine.execCapture s
  | .readMailboxPart2 => Sys2Proof.Machine.execReadMailboxPart2 s
  | .readCounters => Sys2Proof.Machine.execReadCounters s
  | .resumeBus => Sys2Proof.Machine.execResumeBus s
  | .restart => Sys2Proof.Machine.execRestart s
  | .openEdit => Sys2Proof.Machine.execOpenEdit s
  | .closeEdit => Sys2Proof.Machine.execCloseEdit s
  | .setMatch => Sys2Proof.Machine.execSetMatch s
  | .setTiming => Sys2Proof.Machine.execSetTiming s
  | .setSlot => Sys2Proof.Machine.execSetSlot s
  | .setProfile => Sys2Proof.Machine.execSetProfile s
  | .commit => Sys2Proof.Machine.execCommit s
  | .cancel => Sys2Proof.Machine.execCancel s
  | .snapshot => Sys2Proof.Machine.execSnapshot s
  | .readNotices => Sys2Proof.Machine.execReadNotices s
  | .ackNotices => Sys2Proof.Machine.execAckNotices s
  | .setNoticeEnable => Sys2Proof.Machine.execSetNoticeEnable s
  | .readAttention => Sys2Proof.Machine.execReadAttention s
  | .unknownRequest => Sys2Proof.Machine.execUnknownRequest s
  | .broadcastDiscard => Sys2Proof.Machine.execBroadcastDiscard s

end Sys2Proof.Machine
end

