-- ==== Sys2Proof/Machine/Step.lean ====
section
/-! DEFINITION. One step: the command at the front of the queue is taken (log 13). -/

namespace Sys2Proof.Machine

/-- The queue's rest after its front command is taken. -/
def State.popped (rest : List Instr) (s : State) : State := { s with pending := rest }

/-- One step: the front command is executed on the state with the queue's rest; on an empty queue the part idles
(DESIGN CHOICE, log 13). -/
def step (s : State) : Host.Outcome State Fault Refusal :=
  match s.pending with
  | [] => .next s
  | c :: rest => exec c (s.popped rest)

/-- The state with the command a table word spells at the front of the queue. No word spells one (log 14). -/
def State.withFetchWord (s : State) (nbits w : Nat) : State :=
  match decodeTableWord nbits w with
  | some c => { s with pending := c :: s.pending }
  | none => s

end Sys2Proof.Machine
end

