-- ==== Sys2Proof/Safety.lean ====
section
/-! DEFINITION. What the statements are said in: the part as an event finds it, the request being taken, the reply it
gets, and the laws of the data sheet that every step keeps. -/

namespace Sys2Proof.Machine

/-! ### Events -/

/-- The part as an event at time t finds it: the internal steps before it taken, time moved on, the event begun
(log 2, log 3). -/
def State.found (t : Nat) (s : State) : State := ((s.ripe t).advanceTo t).newEvent

/-- An event at time t is in order: no deadline before it is still to be taken (log 2). -/
abbrev State.inTime (t : Nat) (s : State) : Prop := (s.ripe t).inOrder t = true

/-- Another node's frame is being received and the part is not held in reset (07, R113). -/
abbrev State.receives (s : State) : Prop := s.bus.line = .receiving ∧ s.bus.unheard = false

/-- The engine takes the request `r`, which stands before `rest`, by a row of the table (08, R128). -/
abbrev State.takes (row : TakeRow) (r : Request) (rest : List Request) (s : State) : Prop :=
  s.engine.requests = r :: rest ∧ r.row = row ∧ s.canTake = true

/-- The state `t` is `u` but for its transmit queue, with the request gone from the request queue and counted in counter
107 (08, R128). -/
def State.onlyAnswers (rest : List Request) (u t : State) : Prop :=
  t = { u with
    tx := t.tx
    engine := { u.engine with requests := rest }
    counters := (u.count Counter.requestsTaken).counters }

/-- One entry is placed behind every queued one, with an attempt count of 0 (06, R98). -/
def State.placedBehind (o : Owner) (u t : State) : Prop :=
  ∃ e : Entry, e.owner = o ∧ e.attempts = 0 ∧ t.tx.queued = u.tx.queued ++ [e] ∧ ∀ x ∈ u.tx.queued, x.stamp < e.stamp

/-- Entries of these owners are placed behind every queued one, in this order, with an attempt count of 0; no other entry
joins or leaves the queue (06, R98). -/
def State.placedInOrder (owners : List Owner) (u t : State) : Prop :=
  ∃ es : List Entry, es.map (fun e => e.owner) = owners ∧ (∀ e ∈ es, e.attempts = 0) ∧
    t.tx.queued = u.tx.queued ++ es ∧ es.Pairwise (fun a b => a.stamp < b.stamp) ∧
    ∀ x ∈ u.tx.queued, ∀ e ∈ es, x.stamp < e.stamp

/-- The queue and the notice unit after an event that places entries of these owners and, if `makes`, makes one offer of a
notice placement, which is decided against the NOTICE entry that exists (10, R176). -/
def State.offered (owners : List Owner) (makes : Prop) (u t : State) : Prop :=
  let flying := u.hasInFlight Owner.isNotice = true
  let absent := u.hasInFlight Owner.isNotice = false ∧ u.hasQueued Owner.isNotice = false
  (makes ∧ flying → t.notices.deferred = true) ∧
    (¬ (makes ∧ flying) → t.notices.deferred = u.notices.deferred) ∧
    (makes ∧ absent → t.notices.repeatCount = 0 ∧ u.placedInOrder (owners ++ [.notice]) t) ∧
    (¬ (makes ∧ absent) → t.notices.repeatCount = u.notices.repeatCount ∧ u.placedInOrder owners t)

/-- The same after an event with, if `happens`, a condition event of c: its flag is set and, if it was clear and is enabled,
one offer is made; no other flag changes (10, R174, R176). -/
def State.conditionEvent (owners : List Owner) (c : Condition) (happens : Prop) (u t : State) : Prop :=
  (happens → t.notices.latched = u.notices.latched ||| c.bit) ∧
    (¬ happens → t.notices.latched = u.notices.latched) ∧
    u.offered owners (happens ∧ c.isIn u.notices.latched = false ∧ c.isIn u.notices.enabled = true) t

/-- The lowest-numbered FREE reply entry takes the reply and is queued behind every queued entry; no other reply entry
changes (06, R97; 08, R129). -/
def State.replied (r : Request) (result : ResultCode) (data : List Byte) (u t : State) : Prop :=
  ∃ k : Fin 4, (u.reply k).status = .free ∧
    (∀ j : Fin 4, j < k → (u.reply j).status ≠ .free) ∧
    t.tx.replies = u.tx.replies.set k
      { status := .queued, content := { code := r.code, tag := r.tag, result := result, data := data } } ∧
    u.placedBehind (.reply k) t

/-- Whether a mailbox of the active image takes a frame (02, R20, R21): it is FEED and matches, and every lower-numbered
match has its chain on. -/
def State.takesFrame (s : State) (f : Frame) (m : Fin 32) : Prop :=
  (s.config m).takes f.id = true ∧ ∀ k : Fin 32, k < m → (s.config k).takes f.id = true → (s.config k).chain = true

/-- What a store leaves of a mailbox (02, R23). -/
def Runtime.isStored (f : Frame) (b b' : Runtime) : Prop :=
  b' = { b with state := .fresh, data := b'.data, dataLength := f.count, age := 0 } ∧
    ∀ i : Fin 8, b'.data[i] = if i.val < f.count then f.data.getD i.val 0 else 0

/-- The mailbox takes the frame while it is FRESH, under attention enable (02, R24). -/
def State.overwrites (s : State) (f : Frame) (m : Fin 32) : Prop :=
  s.takesFrame f m ∧ (s.box m).state = .fresh ∧ (s.config m).attention = true

/-- What the offer of a frame to the match unit, if it is made, leaves of mailbox m and of its counters (02, R20, R21, R23,
R24, R25). -/
def State.matchedAt (f : Frame) (offered : Prop) (m : Fin 32) (u t : State) : Prop :=
  let takes := offered ∧ u.takesFrame f m
  (takes → Runtime.isStored f (u.box m) (t.box m) ∧ t.live (counterA m) = satSucc (u.live (counterA m)) ∧
      t.live (counterB m) =
        (if (u.box m).state = .fresh then satSucc (u.live (counterB m)) else u.live (counterB m)) ∧
      t.live (counterC m) = u.live (counterC m)) ∧
    (¬ takes → t.box m = u.box m ∧ t.live (counterA m) = u.live (counterA m) ∧
      t.live (counterB m) = u.live (counterB m) ∧ t.live (counterC m) = u.live (counterC m))

/-- What the same offer leaves of the attention set and of the read hold: an overwrite under attention enable sets its
mailbox's bit, and a store that alters the data of the held mailbox sets changed-since-capture (02, R24; 08, R140). -/
def State.matchMarks (f : Frame) (offered : Prop) (u t : State) : Prop :=
  let h := u.engine.hold
  let altered := offered ∧ u.takesFrame f h.mailbox ∧ h.valid = true ∧
    (u.box h.mailbox).data ≠ (t.box h.mailbox).data
  (∀ m : Fin 32, t.notices.attention.getLsbD m.val = true ↔
      u.notices.attention.getLsbD m.val = true ∨ (offered ∧ u.overwrites f m)) ∧
    (altered → t.engine = { u.engine with hold := { h with changed := true } }) ∧
    (¬ altered → t.engine = u.engine)

/-- The offer's overwrites make the attention set pass from empty to non-empty (10, R182). -/
def State.matchAttends (f : Frame) (offered : Prop) (u : State) : Prop :=
  u.notices.attention = 0 ∧ offered ∧ ∃ m, u.overwrites f m

/-- A RESUME_BUS request to this node (07, R122). -/
def State.resumesBus (f : Frame) (u : State) : Prop :=
  u.engine.node ≠ 0 ∧ f.id.toNat = 0xF00 + u.engine.node.toNat ∧ 2 ≤ f.count ∧ f.bytes.getD 0 0 = 0x18

/-- What a good reception leaves of the bus port, the queue and the notice unit: the line falls idle; in SILENT the
good-frame count advances, or the 64th frame or a RESUME_BUS request ends SILENT with BUS_RESUMED; then, if `happens`, a
condition event of c follows (07, R113, R121, R122). -/
def State.hears (f : Frame) (c : Condition) (happens : Prop) (u t : State) : Prop :=
  let ends := u.bus.port = .silent ∧ (u.resumesBus f ∨ 64 ≤ u.bus.goods + 1)
  (u.bus.port = .active → t.bus = { u.bus with line := .idle }) ∧
    (ends → t.bus = { u.bus with line := .idle, port := .active, errors := 0, goods := 0 }) ∧
    (u.bus.port = .silent → ¬ ends → t.bus = { u.bus with line := .idle, goods := u.bus.goods + 1 }) ∧
    ∃ v : State, u.conditionEvent [] .busResumed ends v ∧ v.conditionEvent [] c happens t ∧
      v = { u with
        tx := { u.tx with queued := v.tx.queued }
        notices := { u.notices with
          latched := v.notices.latched, deferred := v.notices.deferred, repeatCount := v.notices.repeatCount } }

/-- The role under which an entry of a slot map names mailbox m, if it does (01, R12). -/
def Image.names (i : Image) (n : Fin 64) (m : Fin 32) : Option SlotRole :=
  if (i.slots[n]).role ≠ .pass ∧ (i.slots[n]).mailbox = m then some (i.slots[n]).role else none

/-- A swap from one image to the other finds mailbox m changed (01, R12). -/
def Image.changes (old new : Image) (m : Fin 32) : Prop :=
  old.boxes[m] ≠ new.boxes[m] ∨ ∃ n : Fin 64, old.names n m ≠ new.names n m

/-! ### Internal steps -/

/-- The row of a step a boundary brings about. -/
def DueStep.command : DueStep → Instr
  | .swap => .swap
  | .sessionExpiry => .sessionExpiry
  | .snapshotExpiry => .snapshotIntervalExpiry
  | .repeatExpiry => .noticeRepeatExpiry

/-- The row by which a request is taken. -/
def TakeRow.command : TakeRow → Instr
  | .probe => .probe
  | .discover => .discover
  | .assign => .assign
  | .readConfig => .readConfig
  | .readMailboxPart0 => .readMailboxPart0
  | .capture => .capture
  | .readMailboxPart2 => .readMailboxPart2
  | .readCounters => .readCounters
  | .resumeBus => .resumeBus
  | .restart => .restart
  | .openEdit => .openEdit
  | .closeEdit => .closeEdit
  | .setMatch => .setMatch
  | .setTiming => .setTiming
  | .setSlot => .setSlot
  | .setProfile => .setProfile
  | .commit => .commit
  | .cancel => .cancel
  | .snapshot => .snapshot
  | .readNotices => .readNotices
  | .ackNotices => .ackNotices
  | .setNoticeEnable => .setNoticeEnable
  | .readAttention => .readAttention
  | .unknownRequest => .unknownRequest
  | .broadcastDiscard => .broadcastDiscard

/-- What an event has brought about within itself is finished by the rows of the table: the steps a boundary waits for, then
a restart that is due (log 5). -/
inductive State.Finishes : State → State → Prop
  | done {s : State} : s.boundary = none → s.restartDue = false → Finishes s s
  | due {s t u : State} {b : Boundary} : s.boundary = some b → exec b.due.command s = .next t → Finishes t u →
      Finishes s u
  | restart {s t : State} : s.boundary = none → s.restartDue = true → exec .restartPerformed s = .next t →
      Finishes s t

/-- What is open is finished, and the selections and the takes that are possible are made, a selection before a take, until
none is (06, R99; 08, R128; log 3). -/
inductive State.Settles : State → State → Prop
  | done {s t : State} : State.Finishes s t → t.canSelect = false → t.canTake = false → Settles s t
  | select {s t v w : State} : State.Finishes s t → t.canSelect = true → exec .selection t = .next v → Settles v w →
      Settles s w
  | take {s t v w : State} {row : TakeRow} {r : Request} {rest : List Request} : State.Finishes s t →
      t.canSelect = false → t.takes row r rest → exec row.command t = .next v → Settles v w → Settles s w

/-! ### Commands the state rules out (log 1) -/

/-- The time of a command that comes from outside at a time of its own; power comes in any state (log 25). -/
def eventTime : Instr → Option Nat
  | .nresetAssert time | .nresetRelease time _ | .frameStart time | .frameArrival time _ | .arbitrationLost time _
  | .transmitError time | .completion time | .finishingFrameOutcome time _ | .roundMarkArrival time _ _
  | .incomingSlotStart time | .slotArrival time _ => some time
  | _ => none

/-- The state rules a command out: the part it finds is not in the state for the event it names (log 1). -/
inductive State.RulesOut (s : State) : Instr → Prop
  | disorder {c : Instr} {time : Nat} : eventTime c = some time → ¬ s.inTime (16 * time) → RulesOut s c
  | power {time : Nat} {straps : Straps} {busy : Bool} : 16 * time < s.now → RulesOut s (.powerOn time straps busy)
  | asserted {time : Nat} : (s.ripe (16 * time)).held = true → RulesOut s (.nresetAssert time)
  | released {time : Nat} {straps : Straps} : (s.ripe (16 * time)).held = false → RulesOut s (.nresetRelease time straps)
  | lineBusy {time : Nat} : (s.ripe (16 * time)).bus.line ≠ .idle ∨ (s.ripe (16 * time)).bus.unheard = true →
      RulesOut s (.frameStart time)
  | noFrame {time : Nat} {r : Reception} : (s.ripe (16 * time)).bus.line ≠ .receiving →
      (s.ripe (16 * time)).bus.unheard = false → RulesOut s (.frameArrival time r)
  | noSelection : s.finish.canSelect = false → RulesOut s .selection
  | noLoss {time : Nat} {winner : BusId} :
      (∀ e f, (s.ripe (16 * time)).bus.flight = some (.attempt e f) → ¬ winner < f.id) →
      RulesOut s (.arbitrationLost time winner)
  | noError {time : Nat} : (∀ e f, (s.ripe (16 * time)).bus.flight ≠ some (.attempt e f)) → RulesOut s (.transmitError time)
  | noCompletion {time : Nat} : (∀ e f, (s.ripe (16 * time)).bus.flight ≠ some (.attempt e f)) →
      RulesOut s (.completion time)
  | noFinishing {time : Nat} {o : AttemptOutcome} : (∀ f, (s.ripe (16 * time)).bus.flight ≠ some (.finishing f)) →
      RulesOut s (.finishingFrameOutcome time o)
  | markTooLate {time : Nat} {m : RoundMark} {order : BoundaryOrder} :
      (s.ripe (16 * time)).windowClosed = some (16 * time) → RulesOut s (.roundMarkArrival time m order)
  | noWindow : s.held = true ∨ (s.finish.windowEnd = none ∧ s.settle.windowEnd = none) → RulesOut s .windowClose
  | slotUnderWay {time : Nat} {r : InRound} : (s.ripe (16 * time)).ring.inRound = some r → r.started = true →
      RulesOut s (.incomingSlotStart time)
  | noSlot {time : Nat} {b : SlotBytes} {r : InRound} : (s.ripe (16 * time)).ring.inRound = some r → r.started = false →
      RulesOut s (.slotArrival time b)
  | noMasterTimer {order : BoundaryOrder} : s.held = true ∨ (s.finish.ring.timer = none ∧ s.settle.ring.timer = none) ∨
      (s.finish.role = .follower ∧ s.settle.role = .follower) → RulesOut s (.roundTimerExpiry order)
  | noLocalTimer {order : BoundaryOrder} : s.held = true ∨ (s.finish.ring.timer = none ∧ s.settle.ring.timer = none) ∨
      (s.finish.role = .master ∧ s.settle.role = .master) → RulesOut s (.localRoundTimerExpiry order)
  | notDue {d : DueStep} : (∀ b, s.boundary = some b → b.due ≠ d) → RulesOut s d.command
  | noRestart : s.boundary ≠ none ∨ s.restartDue = false → RulesOut s .restartPerformed
  | notTaken {row : TakeRow} : (∀ r rest, ¬ s.finish.takes row r rest) → RulesOut s row.command

/-! ### Words of single statements -/

/-- The entries a selection discards (06, R100). -/
def State.discards (u : State) (o : Owner) : Bool :=
  (decide (u.engine.node = 0) && (o.isReply || o.isNotice)) || (decide (u.enabledLatched = 0) && o.isNotice)

/-- Whether an entry is not a report of an older generation (06, R108). -/
def State.isCurrent (u : State) (e : Entry) : Prop :=
  ∀ m g, e.owner = .report m g → g = (u.box m).generation

/-- The queue with an entry back at the position of its stamp (06, R103). -/
def Entry.putBack (e : Entry) (l : List Entry) : List Entry :=
  l.filter (fun x => decide (x.stamp ≤ e.stamp)) ++ [e] ++ l.filter (fun x => decide (e.stamp < x.stamp))

/-- The owner of an entry that goes back: a report mailbox becomes PENDING, a reply entry QUEUED (05, R87; 06, R103). -/
def State.ownerWaits (o : Owner) (u t : State) : Prop :=
  match o with
  | .report m _ => t.boxes = u.boxes.set m { u.box m with state := .pending, captured := none } ∧
      t.tx.replies = u.tx.replies
  | .reply k => t.boxes = u.boxes ∧ t.tx.replies = u.tx.replies.set k { u.reply k with status := .queued }
  | .notice | .discovery => t.boxes = u.boxes ∧ t.tx.replies = u.tx.replies

/-- A mark at a time in microseconds is in order: no window closed empty at that instant, for a close at the bound of its
window comes after the mark (04, R62; log 2, log 32). -/
abbrev State.markInTime (time : Nat) (s : State) : Prop :=
  s.inTime (16 * time) ∧ (s.ripe (16 * time)).windowClosed ≠ some (16 * time)

/-- A mark is good (03, R37; 08, R149). -/
def GoodMark (m : RoundMark) : Prop :=
  m.pattern = 0xE7 ∧ m.check = m.number ^^^ m.count ^^^ 0x5A ∧
    (m.count = 8 ∨ m.count = 16 ∨ m.count = 32 ∨ m.count = 64)

/-- The lock machine judges the mark: any mark at a follower, a mark of its own at a master (04, R66). -/
def State.judges (u : State) (m : RoundMark) : Prop :=
  u.role = .follower ∨ (u.role = .master ∧ m.number ∈ u.ring.emitted)

/-- A slot is good: its check agrees and it is well formed (03, R38; 08, R150). -/
def GoodSlot (b : SlotBytes) : Prop :=
  b.check = b.data.toList.foldl (fun x y => x ^^^ y) b.head ^^^ 0xA5 ∧ b.head.toNat / 16 ≤ 3 ∧ b.head.toNat % 16 ≤ 8 ∧
    ∀ i : Fin 8, b.head.toNat % 16 ≤ i.val → b.data[i] = 0

/-- The slot is the one a drive builds from mailbox m (02, R26; 08, R150). -/
def State.builds (u : State) (m : Fin 32) (b : SlotBytes) : Prop :=
  b.data = (u.box m).data ∧ b.head = BitVec.ofNat 8 ((u.box m).state.code.toNat * 16 + (u.box m).dataLength) ∧
    b.check = b.data.toList.foldl (fun x y => x ^^^ y) b.head ^^^ 0xA5

/-- What a drive leaves of a mailbox: FRESH becomes HELD (02, R26). -/
def Runtime.driven (b : Runtime) : Runtime := if b.state = .fresh then { b with state := .held } else b

/-! ### Rounds -/

/-- What a reset makes of the outbound line: the slot being re-emitted, and a master's mark or slot, go out in part
(03, R55). -/
def State.routCut (u : State) : List RingEmission :=
  u.rout ++
    (match u.ring.inRound with
      | some r => if r.started = true ∧ r.use ≠ .returned then [.partialSlot r.arrived] else []
      | none => []) ++
    (match u.ring.outRound with
      | some o => [if o.sending = none then .partialMark else .partialSlot (o.next - 1)]
      | none => [])

/-- What a mark, or the close of a window, makes of an accepted round whose slots have not all arrived: it is truncated and
counted, a slot being re-emitted goes out in part, and a LISTEN slot cut in the middle counts as a bad check (04, R65;
03, R52; log 19, log 26). -/
def State.roundCut (u : State) : State :=
  match u.ring.inRound with
  | none => u
  | some r =>
    let cut : State := { u with
      ring := { u.ring with inRound := none }
      counters := (u.count 100).counters
      rout := u.rout ++ if r.started = true ∧ r.use ≠ .returned then [.partialSlot r.arrived] else [] }
    if r.started = true ∧ r.use ≠ .passThrough ∧ (u.active.slot r.arrived).role = .listen then
      (cut.count 98).latch .slotCheck
    else cut

/-- The round a mark announces (03, R40, R46, R48). -/
def announced (m : RoundMark) (use : RoundUse) : InRound :=
  { slots := m.count.toNat, arrived := 0, started := false, driven := none, use := use }

/-- The fields of the lock at the acceptance of a mark: P is p, E its time plus P, X its number plus one (04, R62). -/
def RingPort.accepts (time p : Nat) (m : RoundMark) (use : RoundUse) (g : RingPort) : RingPort :=
  { g with
    lock := .locked, period := some p, expected := some (time + p), expectedNumber := m.number + 1, misses := 0
    inRound := some (announced m use) }

/-- A round boundary is over: the timer that raised it is re-armed with the period now in force, and a master begins the
round, whose number joins the last four (03, R45; 04, R57, R58, R59). -/
def State.boundaryEnds (cause : BoundaryCause) (v t : State) : Prop :=
  let p := v.active.profile.roundPeriod
  let slots := v.active.profile.slotCount.toNat
  let armed := if v.ring.timer = none then none else some { period := p, next := v.now + 16 * p }
  match cause, v.role with
  | .acceptedMark, _ => t = v
  | .localTimer, _ => t = { v with ring := { v.ring with timer := armed } }
  | .masterTimer, .follower => t = { v with ring := { v.ring with timer := armed } }
  | .masterTimer, .master => t = { v with ring := { v.ring with
      timer := armed
      emitted := (v.ring.emitted ++ [v.ring.current]).drop (v.ring.emitted.length + 1 - 4)
      outRound := some { start := v.now, slots := slots, next := 0, sending := none, mark := {
        pattern := 0xE7, number := v.ring.current, count := BitVec.ofNat 8 slots
        check := v.ring.current ^^^ BitVec.ofNat 8 slots ^^^ 0x5A } } } }

/-- The works of a boundary are taken one after another from v on; one that brings about a step of the table leaves the
boundary waiting for that step (04, R70; log 5). -/
def State.boundaryRuns (number : Byte) (cause : BoundaryCause) : BoundaryOrder → State → State → Prop
  | [], v, t => State.boundaryEnds cause v t
  | w :: rest, v, t =>
    ((v.work w).2 = none → State.boundaryRuns number cause rest (v.work w).1 t) ∧
      ∀ d, (v.work w).2 = some d →
        t = { (v.work w).1 with boundary := some { number := number, cause := cause, due := d, rest := rest } }

/-! ### Report mailboxes -/

/-- The change tests, on the mailbox after the event's own updates; `previous` is the class before (05, R80, R81, R82). -/
def Triggers (c : MailboxConfig) (b : Runtime) (previous : SlotClass) : Prop :=
  let ref := if b.state = .sending then b.captured.getD b.lastSent else b.lastSent
  (b.state ≠ .sending ∧ previous = .none) ∨
    (b.state ≠ .sending ∧ previous.degraded = true ∧ b.classSeen = .live) ∨
    (b.classSeen ≠ ref.cls ∧ (b.classSeen.degraded = true → c.degraded ≠ .suppress)) ∨
    ((b.classSeen.degraded = true → c.degraded = .forward) ∧
      ∃ i : Fin 8, c.changeMask.getLsbD i.val = true ∧ b.data[i] ≠ ref.data[i])

/-- What a trigger leaves of a report mailbox (05, R85). -/
def Runtime.triggered (b : Runtime) : Runtime :=
  match b.state with
  | .void | .quiet => { b with state := .pending }
  | .sending => { b with again := true }
  | .pending | .fresh | .held | .stale => b

/-- Entry into a degraded class from LIVE or NONE under attention enable, which marks attention (05, R91). -/
def State.marksAttention (m : Fin 32) (b : Runtime) (u : State) : Prop :=
  (u.box m).classSeen.degraded = false ∧ b.classSeen.degraded = true ∧ (u.config m).attention = true

/-- What the tests at the end of an arrival or of a class-LOST event do at mailbox m, which the event's own updates have
made `b`: a trigger by its state, a coalesced one counted, an entry placed unless an older generation's is in flight,
and attention bit m (05, R77, R79, R85, R91; 01, R13). -/
def State.tested (m : Fin 32) (b : Runtime) (u t : State) : Prop :=
  let fires := Triggers (u.config m) b (u.box m).classSeen
  (fires → t.box m = b.triggered) ∧ (¬ fires → t.box m = b) ∧
    (fires ∧ b.state = .pending → t.live (counterB m) = satSucc (u.live (counterB m))) ∧
    (¬ (fires ∧ b.state = .pending) → t.live (counterB m) = u.live (counterB m)) ∧
    (fires → b.state = .void ∨ b.state = .quiet → u.hasInFlight (Owner.isReportOf m) = false →
      ∃ x ∈ t.tx.queued, x.owner = .report m b.generation ∧ x.attempts = 0) ∧
    (State.marksAttention m b u → t.notices.attention.getLsbD m.val = true) ∧
    (¬ State.marksAttention m b u → t.notices.attention.getLsbD m.val = u.notices.attention.getLsbD m.val)

/-- The mailboxes the loss of a lock reaches (04, R71). -/
def State.dependsOnLock (u : State) (j : Fin 32) : Prop :=
  (u.config j).kind = .report ∧ (∃ n : Fin 64, u.active.slots[n] = { role := .listen, mailbox := j }) ∧
    (u.box j).classSeen ≠ .none ∧ (u.box j).classSeen ≠ .lost

/-- Class LOST is given to the mailboxes that depend on the lock, and to no other (04, R71; 05, R79). -/
def State.givesClassLost (u t : State) : Prop :=
  ∀ j : Fin 32,
    (u.dependsOnLock j → State.tested j { u.box j with classSeen := .lost } u t) ∧
    (¬ u.dependsOnLock j → t.box j = u.box j ∧ t.live (counterB j) = u.live (counterB j) ∧
      t.notices.attention.getLsbD j.val = u.notices.attention.getLsbD j.val)

/-- The lock is lost at a third miss (04, R64, R68, R71); the discarded X is left open (log 20). -/
def State.losesLock (u t : State) : Prop :=
  let p := u.active.profile.roundPeriod
  t.ring = { u.ring with
      lock := .hunt, reference := none, period := none, expected := none, expectedNumber := t.ring.expectedNumber
      misses := 0
      timer := match u.role with
        | .follower => some { period := p, next := u.now + 16 * p }
        | .master => u.ring.timer } ∧
    t.live 97 = satSucc (u.live 97) ∧ t.live 99 = satSucc (u.live 99) ∧
    (∀ k : Fin 111, 96 ≤ k.val → k ≠ 97 → k ≠ 99 → t.live k = u.live k) ∧
    Condition.ringLost.isIn t.notices.latched = true ∧ State.givesClassLost u t ∧
    t = { u with
      boxes := t.boxes
      ring := t.ring
      tx := { u.tx with queued := t.tx.queued }
      notices := { t.notices with enabled := u.notices.enabled, sequence := u.notices.sequence }
      counters := { u.counters with live := t.counters.live } }

/-- The take of a broadcast request: it is counted, it leaves the queue, and a new event begins (08, R128). -/
def State.taken (rest : List Request) (u : State) : State :=
  { u with
    tx := { u.tx with epoch := u.tx.epoch + 1, placed := 0 }
    engine := { u.engine with requests := rest }
    counters := (u.count 107).counters }

/-- A request from the owner of an open, unfrozen session (09, R156). -/
def State.owns (r : Request) (u : State) : Prop := u.engine.owner = some r.tag ∧ u.engine.commit = none

/-- The owner's request answered with a staging image; only that image, the idle count and the queues change. -/
def State.edited (r : Request) (rest : List Request) (result : ResultCode) (staging : Image) (u t : State) : Prop :=
  u.replied r result [] t ∧
    t = { u with
      staging := staging
      tx := t.tx
      engine := { u.engine with requests := rest, idle := 0 }
      counters := (u.count 107).counters }

/-! ### Laws every step keeps -/

/-- The stamps of the queued entries and of the entry in flight are those of events that have begun, and the queued
entries stand in stamp order (06, R98, R103). -/
def State.queueLaw (s : State) : Prop :=
  (∀ e ∈ s.tx.queued, e.stamp < 64 * (s.tx.epoch + 1)) ∧
    (∀ e ∈ s.inFlight, e.stamp < 64 * (s.tx.epoch + 1)) ∧
    s.tx.queued.Pairwise (fun a b => a.stamp ≤ b.stamp)

/-- At most one NOTICE and at most one DISCOVERY entry, queued or in flight (06, R96). -/
def State.singleLaw (s : State) : Prop :=
  (s.tx.queued ++ s.inFlight.toList).countP (fun e => e.owner.isNotice) ≤ 1 ∧
    (s.tx.queued ++ s.inFlight.toList).countP (fun e => e.owner.isDiscovery) ≤ 1

/-- The request queue never holds more than four requests, each of 2 to 8 data bytes (08, R126). -/
def State.requestLaw (s : State) : Prop :=
  s.engine.requests.length ≤ 4 ∧ ∀ r ∈ s.engine.requests, 2 ≤ r.data.length ∧ r.data.length ≤ 8

/-- While no session is open staging equals active; a pending commit is the open session's own; 0 is no owner token; a
session that is expiring has no commit pending (09, R155, R157, R159, R166). -/
def State.sessionLaw (s : State) : Prop :=
  (s.engine.owner = none → s.staging = s.active) ∧
    (∀ c ∈ s.engine.commit, s.engine.owner = some c.tag) ∧
    s.engine.owner ≠ some 0 ∧
    (∀ b ∈ s.boundary, b.due = .sessionExpiry → s.engine.commit = none)

/-- The minimum round period of a master in microseconds, by its slot count (03, R40; 09, R164). -/
def SlotCount.leastPeriod (c : SlotCount) : Nat :=
  match c with
  | .c8 => 56
  | .c16 => 107
  | .c32 => 209
  | .c64 => 414

/-- Every field of an image lies in its range (01, R3; 09, R163). -/
def Image.inRange (i : Image) : Prop :=
  (∀ m : Fin 32, (i.boxes[m]).length ≤ 8) ∧
    56 ≤ i.profile.roundPeriod ∧ i.profile.roundPeriod ≤ 65535 ∧
    1 ≤ i.profile.retryLimit ∧ i.profile.retryLimit ≤ 15 ∧
    i.profile.snapshotInterval ≤ 65535 ∧ i.profile.noticeRepeat ≤ 255 ∧
    16 ≤ i.profile.idleLimit ∧ i.profile.idleLimit ≤ 65535

/-- The law of the slot map (03, R42), the identifiers of R3, and the minimum round period of a master (03, R40). -/
def Image.lawful (i : Image) : Prop :=
  (∀ n : Fin 64, (i.slots[n]).role = .drive → (i.boxes[(i.slots[n]).mailbox]).kind = .feed) ∧
    (∀ n : Fin 64, (i.slots[n]).role = .listen → (i.boxes[(i.slots[n]).mailbox]).kind = .report) ∧
    (∀ n k : Fin 64, n < k → (i.slots[n]).role ≠ .pass → (i.slots[k]).role ≠ .pass →
      (i.slots[n]).mailbox ≠ (i.slots[k]).mailbox) ∧
    (∀ m : Fin 32, (i.boxes[m]).kind ≠ .unused → (i.boxes[m]).identifier ≤ 0xEFF) ∧
    (i.profile.role = .master → i.profile.slotCount.leastPeriod ≤ i.profile.roundPeriod)

/-- Both images lie in range (09, R154); the active image is lawful, and so is a staging image whose commit is pending
(03, R42; 09, R164, R166). -/
def State.imageLaw (s : State) : Prop :=
  s.active.inRange ∧ s.staging.inRange ∧ s.active.lawful ∧ (s.engine.commit.isSome = true → s.staging.lawful)

/-- The round timer runs but at a locked follower or under reset; the miss count and the emitted numbers keep their
bounds (04, R56, R57, R76). -/
def State.ringLaw (s : State) : Prop :=
  (s.held = false → (s.ring.timer = none ↔ (s.role = .follower ∧ s.ring.lock = .locked))) ∧
    s.ring.misses ≤ 2 ∧ s.ring.emitted.length ≤ 4

/-- A frame is in flight exactly while the line is SENDING; 32 errors in a row are SILENT, which has no frame in flight;
the good-frame count runs in SILENT alone (07, R112, R120). -/
def State.busLaw (s : State) : Prop :=
  (s.bus.line = .sending ↔ s.bus.flight.isSome = true) ∧
    (s.bus.port = .active → s.bus.errors < 32 ∧ s.bus.goods = 0) ∧
    (s.bus.port = .silent → s.bus.errors = 32 ∧ s.bus.goods < 64 ∧ s.bus.flight = none)

end Sys2Proof.Machine
end

