-- ==== Sys2Proof/Certificates/Slice0/Obligations.lean ====
section
/-! DEFINITION. The statements for the provers. `u` is the part as the command finds it, `t` the state it leaves. -/

section Statements

open Sys2Proof Sys2Proof.Machine

/-! ### The step, the commands, reset -/

/-- A step executes the front command on the queue's rest, and idles on an empty queue (the model's choice, log 13). -/
def Obligations.StepTakesFrontCommand : Prop :=
  (∀ (c : Instr) (rest : List Instr) (s : State), s.pending = c :: rest → step s = exec c { s with pending := rest }) ∧
    ∀ s : State, s.pending = [] → step s = .next s

/-- Every command answers a next state in every state and leaves the queue of commands and the serial as they were (08,
R132). A command that the state rules out, as State.RulesOut names them, leaves all as it was (the model's choice, log 1). -/
def Obligations.EveryCommandAnswersNext : Prop :=
  (∀ (c : Instr) (s : State), ∃ t, exec c s = .next t ∧ t.pending = s.pending ∧ t.engine.serial = s.engine.serial) ∧
    ∀ (c : Instr) (s : State), s.RulesOut c → exec c s = .next s

/-- The values right after the power-on release. -/
def Obligations.ResetState : Prop :=
  State.reset.role = .follower ∧ State.reset.ring.lock = .hunt ∧ State.reset.ring.reference = none ∧
    State.reset.ring.period = none ∧ State.reset.ring.expected = none ∧ State.reset.ring.expectedNumber = 0 ∧
    State.reset.ring.misses = 0 ∧ State.reset.ring.current = 0 ∧ State.reset.ring.emitted = [] ∧
    State.reset.ring.timer = some { period := 1000, next := 16000 } ∧
    (∀ m : Fin 32, State.reset.box m = {
      state := .void, data := Vector.replicate 8 0, dataLength := 0, classSeen := .none
      lastSent := { data := Vector.replicate 8 0, cls := .none }
      age := 0, again := false, generation := 0, captured := none }) ∧
    (∀ m : Fin 32, State.reset.config m = {
      kind := .unused, identifier := 0, mask := 0, chain := false, length := 0
      changeMask := 0, limit := 0, degraded := .forward, attention := false }) ∧
    (∀ n : Fin 64, State.reset.active.slots[n] = { role := .pass, mailbox := 0 }) ∧
    State.reset.active.profile = {
      role := .follower, slotCount := .c16, roundPeriod := 1000, policy := .priority
      retryLimit := 8, snapshotInterval := 1000, noticeRepeat := 0, selfFeed := false, idleLimit := 2000 } ∧
    State.reset.staging = State.reset.active ∧
    (State.reset.tx.queued.map (fun e => e.owner) = [.notice]) ∧ (∀ k : Fin 4, (State.reset.reply k).status = .free) ∧
    State.reset.bus.port = .active ∧ State.reset.bus.line = .idle ∧ State.reset.bus.flight = none ∧
    State.reset.bus.errors = 0 ∧ State.reset.bus.goods = 0 ∧
    State.reset.engine.requests = [] ∧ State.reset.engine.node = 0 ∧ State.reset.engine.owner = none ∧
    State.reset.engine.idle = 0 ∧ State.reset.engine.commit = none ∧ State.reset.engine.lastCommit = none ∧
    State.reset.engine.waiting = none ∧
    State.reset.engine.hold = { valid := false, mailbox := 0, data := Vector.replicate 8 0, changed := false } ∧
    (∀ c : Condition, c.isIn State.reset.notices.latched = decide (c = .restarted)) ∧
    (∀ c : Condition, c.isIn State.reset.notices.enabled = decide (c = .restarted)) ∧
    State.reset.notices.deferred = false ∧ State.reset.notices.repeatCount = 0 ∧ State.reset.notices.sequence = 0 ∧
    State.reset.notices.attention = 0 ∧
    (∀ k : Fin 111, State.reset.live k = 0) ∧ (∀ k : Fin 111, State.reset.counters.snap[k] = 0) ∧
    State.reset.counters.sequence = 0 ∧ State.reset.counters.interval = 0

/-- At the assertion of NRESET the lines fall idle, a frame in flight is cut, a round in progress is cut, a mark or slot going
out in part, and nothing is timed; every other block waits for the release (log 16). While it is asserted no mark, slot or
frame reaches the part; of a frame on the bus it keeps only that it is there. No mark comes at the close of an empty window
(log 32). -/
def Obligations.AssertedResetStopsTheLines : Prop :=
  (∀ (time : Nat) (s : State), s.inTime (16 * time) →
    let u := s.found (16 * time)
    u.held = false → exec (.nresetAssert time) s = .next { u with
      held := true
      ring := { u.ring with timer := none, inRound := none, outRound := none }
      bus := { u.bus with line := .idle, flight := none, unheard := u.bus.unheard || decide (u.bus.line = .receiving) }
      rout := u.routCut
      btx := if u.bus.flight = none then u.btx else u.btx ++ [.cut] }) ∧
  (∀ (time : Nat) (s : State), s.inTime (16 * time) →
    let u := s.found (16 * time)
    u.held = true →
      (u.windowClosed ≠ some (16 * time) → ∀ m order, exec (.roundMarkArrival time m order) s = .next u) ∧
      (u.bus.line = .idle → u.bus.unheard = false →
        exec (.frameStart time) s = .next { u with bus := { u.bus with unheard := true } }) ∧
      (u.bus.unheard = true → ∀ r,
        exec (.frameArrival time r) s = .next { u with bus := { u.bus with unheard := false } }) ∧
      (u.ring.inRound = none → ∀ b,
        exec (.incomingSlotStart time) s = .next u ∧ exec (.slotArrival time b) s = .next u))

/-- A release of NRESET, and power-on, set every block to its reset values and sample the straps; while NRESET is asserted a
part whose power comes on stays held, until the release of NRESET (11, R189; 07, R124). That power-on is taken in any state,
no deadline standing against it, and finds a frame on the bus or not as the command says, is log 25; that the record of the
outputs is kept is log 9, and that the time of the last empty window is kept is log 32. -/
def Obligations.ReleaseResetsEveryBlock : Prop :=
  ∀ (time : Nat) (straps : Straps) (s : State),
    (s.inTime (16 * time) →
      let u := s.found (16 * time)
      u.held = true → ∃ t, exec (.nresetRelease time straps) s = .next t ∧
      t = { State.reset with
        now := 16 * time
        windowClosed := u.windowClosed
        ring := { State.reset.ring with timer := some { period := 1000, next := 16 * time + 16000 } }
        bus := { State.reset.bus with rate := t.bus.rate, unheard := u.bus.unheard }
        engine := { State.reset.engine with serial := s.engine.serial }
        rout := u.rout
        btx := s.btx
        pending := s.pending } ∧
      (straps = ⟨false, false⟩ → t.bus.rate = .k125) ∧ (straps = ⟨false, true⟩ → t.bus.rate = .k250) ∧
      (straps = ⟨true, false⟩ → t.bus.rate = .k500) ∧ (straps = ⟨true, true⟩ → t.bus.rate = .k1000)) ∧
    ∀ busy : Bool, s.now ≤ 16 * time →
      let u := s.finish
      exec (.powerOn time straps busy) s = .next { State.reset with
        now := 16 * time
        windowClosed := u.windowClosed
        held := u.held
        ring := { State.reset.ring with
          timer := if u.held = true then none else some { period := 1000, next := 16 * time + 16000 } }
        bus := { State.reset.bus with rate := BitRate.ofStraps straps, unheard := busy }
        engine := { State.reset.engine with serial := s.engine.serial }
        rout := u.routCut
        btx := if u.bus.flight = none then u.btx else u.btx ++ [.cut]
        pending := s.pending }

/-- A restart sets every block to its reset values but the node number, the serial and the bit rate; a frame in flight
becomes a finishing frame, a frame being received goes on, and a round in progress is cut (08, R147; 07, R123; 03, R55).
The record of the outputs and the time of the last empty window are the model's own and stay (logs 9 and 32). -/
def Obligations.RestartResetsAllButTheNode : Prop :=
  ∀ s : State, s.boundary = none → s.restartDue = true → ∃ t, exec .restartPerformed s = .next t ∧
    t = { State.reset with
      now := s.now
      windowClosed := s.windowClosed
      held := s.held
      ring := { State.reset.ring with timer := some { period := 1000, next := s.now + 16000 } }
      bus := { s.bus with port := .active, errors := 0, goods := 0, flight := t.bus.flight }
      engine := { State.reset.engine with node := s.engine.node, serial := s.engine.serial }
      rout := s.routCut
      btx := s.btx
      pending := s.pending } ∧
    (s.bus.flight = none → t.bus.flight = none) ∧
    (∀ e f, s.bus.flight = some (.attempt e f) → t.bus.flight = some (.finishing f)) ∧
    ∀ f, s.bus.flight = some (.finishing f) → t.bus.flight = some (.finishing f)

/-! ### The bus port -/

/-- A frame of another node that begins makes the line RECEIVING. A good frame that is neither traffic nor a request for this
node is only counted and, in ACTIVE, acknowledged; in SILENT it joins the run of good frames, which a reception error ends; of
that one nothing else is kept but its count (07, R113, R114, R115, R121). A frame that was running at the release of NRESET
ends without a trace (07, R124; that the part sends nothing meanwhile is log 15). -/
def Obligations.ReceptionOfOtherFrames : Prop :=
  (∀ (time : Nat) (s : State), s.inTime (16 * time) →
    let u := s.found (16 * time)
    u.held = false → u.bus.line = .idle → u.bus.unheard = false →
      exec (.frameStart time) s = .next { u with bus := { u.bus with line := .receiving } }) ∧
  (∀ (time : Nat) (s : State), s.inTime (16 * time) →
    let u := s.found (16 * time)
    u.receives →
      (∀ f : Frame, 0xF00 < f.id → ¬ (u.engine.node ≠ 0 ∧ f.id.toNat = 0xF00 + u.engine.node.toNat) →
        u.bus.port = .active → exec (.frameArrival time (.good f)) s = .next { u with
          bus := { u.bus with line := .idle }
          counters := (u.count 101).counters
          btx := u.btx ++ [.acknowledge] }) ∧
      (∀ f : Frame, 0xF00 < f.id → ¬ (u.engine.node ≠ 0 ∧ f.id.toNat = 0xF00 + u.engine.node.toNat) →
        u.bus.port = .silent → (s.ripe (16 * time)).queueLaw →
        ∃ t, exec (.frameArrival time (.good f)) s = .next t ∧ u.hears f .busResumed False t ∧ t = { u with
          tx := { u.tx with queued := t.tx.queued }
          bus := t.bus
          notices := { u.notices with
            latched := t.notices.latched, deferred := t.notices.deferred, repeatCount := t.notices.repeatCount }
          counters := (u.count 101).counters }) ∧
      exec (.frameArrival time .error) s = .next { u with
        bus := { u.bus with line := .idle, goods := if u.bus.port = .silent then 0 else u.bus.goods }
        counters := (u.count 102).counters }) ∧
  (∀ (time : Nat) (r : Reception) (s : State), s.inTime (16 * time) →
    let u := s.found (16 * time)
    u.held = false → u.bus.unheard = true →
      exec (.frameArrival time r) s = .next { u with bus := { u.bus with unheard := false } })

/-- A good traffic frame is stored by the mailboxes that take it, and by no other; an overwrite under attention enable marks
attention, and a store that alters the held mailbox's data sets changed-since-capture (02, R20, R21, R23, R24, R25; 08,
R140; 10, R182). Of the bus port it changes what any good frame does (07, R113, R115, R121). -/
def Obligations.TrafficFrameIsStored : Prop :=
  ∀ (time : Nat) (f : Frame) (s : State), s.inTime (16 * time) →
    let u := s.found (16 * time)
    u.receives → f.id ≤ 0xEFF → (s.ripe (16 * time)).queueLaw →
      ∃ t, exec (.frameArrival time (.good f)) s = .next t ∧
        (∀ m : Fin 32, u.matchedAt f True m t) ∧ u.matchMarks f True t ∧
        u.hears f .attention (u.matchAttends f True) t ∧
        t.live 101 = satSucc (u.live 101) ∧ (∀ k : Fin 111, 96 ≤ k.val → k ≠ 101 → t.live k = u.live k) ∧
        t = { u with
          boxes := t.boxes
          tx := { u.tx with queued := t.tx.queued }
          bus := t.bus
          engine := t.engine
          notices := { u.notices with
            latched := t.notices.latched, deferred := t.notices.deferred, repeatCount := t.notices.repeatCount
            attention := t.notices.attention }
          counters := { u.counters with live := t.counters.live }
          btx := if u.bus.port = .active then u.btx ++ [.acknowledge] else u.btx }

/-- A request frame, broadcast or for this node, joins the tail of the request queue, or is dropped and counted, at a full
queue with REQ_LOST (08, R126); nothing else changes but what any good frame does at the bus port (07, R113, R115, R121,
R122). -/
def Obligations.RequestFrameIsQueued : Prop :=
  ∀ (time : Nat) (f : Frame) (s : State), s.inTime (16 * time) →
    let u := s.found (16 * time)
    let short := f.count < 2
    let full := 2 ≤ f.count ∧ 4 ≤ u.engine.requests.length
    u.receives → (s.ripe (16 * time)).queueLaw →
    f.id = 0xF00 ∨ (u.engine.node ≠ 0 ∧ f.id.toNat = 0xF00 + u.engine.node.toNat) →
    ∃ t, exec (.frameArrival time (.good f)) s = .next t ∧ u.hears f .reqLost full t ∧
      t = { u with
        tx := { u.tx with queued := t.tx.queued }
        bus := t.bus
        engine := { u.engine with requests := t.engine.requests }
        notices := { u.notices with
          latched := t.notices.latched, deferred := t.notices.deferred, repeatCount := t.notices.repeatCount }
        counters := t.counters
        btx := if u.bus.port = .active then u.btx ++ [.acknowledge] else u.btx } ∧
      (short → t.engine.requests = u.engine.requests ∧ t.counters = ((u.count 101).count 109).counters) ∧
      (full → t.engine.requests = u.engine.requests ∧ t.counters = ((u.count 101).count 108).counters) ∧
      (¬ short → ¬ full → t.counters = (u.count 101).counters ∧
        t.engine.requests = u.engine.requests ++ [{ broadcast := decide (f.id = 0xF00), data := f.bytes }])

/-- SILENT ends at the 64th good frame in a row, or at once at a RESUME_BUS request to this node; the frame that ends it is
not acknowledged. -/
def Obligations.SilentEnds : Prop :=
  ∀ (time : Nat) (f : Frame) (s : State), s.inTime (16 * time) →
    let u := s.found (16 * time)
    let resume := u.engine.node ≠ 0 ∧ f.id.toNat = 0xF00 + u.engine.node.toNat ∧ 2 ≤ f.count ∧ f.bytes.getD 0 0 = 0x18
    u.receives → u.bus.port = .silent → ∃ t, exec (.frameArrival time (.good f)) s = .next t ∧
      t.btx = u.btx ∧ t.bus.line = .idle ∧ t.bus.flight = u.bus.flight ∧
      (¬ resume → u.bus.goods + 1 < 64 →
        t.bus.port = .silent ∧ t.bus.goods = u.bus.goods + 1 ∧ t.bus.errors = u.bus.errors) ∧
      (resume ∨ 64 ≤ u.bus.goods + 1 → t.bus.port = .active ∧ t.bus.goods = 0 ∧ t.bus.errors = 0 ∧
        Condition.busResumed.isIn t.notices.latched = true)

/-- A selection discards, then starts the entry the policy chooses among those left (06, R99 to R101). Selections and takes
come about when they are possible: before a later event finds the part, all that are possible have been made, and at the same
instant only what is open has been finished (06, R99; 08, R128; 07, R112). That they come in no time, a selection before a
take, is log 3; that what is open is finished by steps of the table is log 5, and that none starts under a frame not heard
log 15. -/
def Obligations.SelectionFollowsThePolicy : Prop :=
  (∀ s : State,
    let u := s.finish
    let left := u.tx.queued.filter (fun x => !State.discards u x.owner)
    u.canSelect = true → u.queueLaw →
      (left = [] → ∃ t, exec .selection s = .next t ∧ t.tx.queued = [] ∧ t.bus = u.bus ∧ t.btx = u.btx) ∧
      (left ≠ [] → ∃ t e f, exec .selection s = .next t ∧ e ∈ left ∧
        t.bus = { u.bus with line := .sending, flight := some (.attempt e f) } ∧
        t.tx.queued = left.filter (fun x => !decide (x = e)) ∧ t.btx = u.btx ++ [.frame f] ∧
        f.id = u.identifier e.owner ∧
        (u.active.profile.policy = .arrival → ∀ x ∈ left, e.stamp ≤ x.stamp) ∧
        (u.active.profile.policy = .priority → ∀ x ∈ left,
          u.identifier e.owner < u.identifier x.owner ∨
            (u.identifier e.owner = u.identifier x.owner ∧ e.stamp ≤ x.stamp)))) ∧
  (∀ s : State, s.canSelect = true ↔ s.held = false ∧ s.bus.port = .active ∧ s.bus.line = .idle ∧ s.bus.flight = none ∧
    s.bus.unheard = false ∧ s.tx.queued ≠ []) ∧
  (∀ s : State, s.canTake = true ↔ s.held = false ∧ s.engine.waiting = none ∧ ∃ r rest, s.engine.requests = r :: rest ∧
    (r.broadcast = false → ∃ k : Fin 4, (s.reply k).status = .free) ∧
    (r.broadcast = true → r.code = 0x03 →
      s.hasInFlight Owner.isReply = false ∧ s.hasInFlight Owner.isNotice = false)) ∧
  (∀ (t : Nat) (s : State),
    (t = s.now → State.Finishes s (s.ripe t)) ∧ (t ≠ s.now → State.Settles s (s.ripe t)))

/-- While the node number is 0 a selection starts no reply and no notice; it frees and counts every queued reply, and makes a
restart due that waits for one of them (06, R100; 08, R146). -/
def Obligations.NodeZeroSendsNoReply : Prop :=
  ∀ s : State,
    let u := s.finish
    let queued (k : Fin 4) := ∃ x ∈ u.tx.queued, x.owner = .reply k
    u.canSelect = true → u.engine.node = 0 → ∃ t, exec .selection s = .next t ∧
      (∀ x ∈ t.tx.queued, x.owner.isReply = false ∧ x.owner.isNotice = false) ∧
      (∀ e f, t.bus.flight = some (.attempt e f) → e.owner.isReply = false ∧ e.owner.isNotice = false) ∧
      (∀ k, queued k → (t.reply k).status = .free) ∧ (∀ k, ¬ queued k → t.reply k = u.reply k) ∧
      (t.restartDue = true ↔ ∃ k, queued k ∧ u.engine.waiting = some k) ∧
      (t.live 110).toNat =
        min 65535 ((u.live 110).toNat + (u.tx.queued.filter (fun x => x.owner.isReply)).length)

/-- The frame captured at a start, and what the start does to the owner, by kind (06, R101, R102; 05, R86; 08, R132, R152,
R153). -/
def Obligations.StartCapturesTheFrame : Prop :=
  ∀ (s t : State) (e : Entry) (f : Frame),
    let u := s.finish
    u.canSelect = true → exec .selection s = .next t → t.bus.flight = some (.attempt e f) →
      f.lengthCode.toNat = f.data.length % 16 ∧
      (∀ k, e.owner = .reply k → f.id.toNat = 0xF40 + u.engine.node.toNat ∧ (t.reply k).status = .inFlight ∧
        f.data = [(u.reply k).content.code, (u.reply k).content.tag, (u.reply k).content.result.code] ++
          (u.reply k).content.data) ∧
      (e.owner = .notice → f.id.toNat = 0xF80 + u.engine.node.toNat ∧ t.notices.deferred = false ∧
        f.data = [u.enabledLatched.setWidth 8, (u.enabledLatched >>> 8).setWidth 8, u.ring.current, u.notices.sequence,
          u.notices.attention.setWidth 8, (u.notices.attention >>> 8).setWidth 8,
          (u.notices.attention >>> 16).setWidth 8, (u.notices.attention >>> 24).setWidth 8]) ∧
      (e.owner = .discovery →
        f.id.toNat = 0xFC0 + (u.engine.serial.toList.foldl (fun x y => x ^^^ y) 0).toNat % 64 ∧
        f.data = u.engine.serial.toList ++ [u.engine.node.setWidth 8, 0x21]) ∧
      (∀ m g, e.owner = .report m g → f.id = (u.config m).identifier ∧
        f.data = (if (u.box m).classSeen.degraded = false ∨ (u.config m).degraded = .forward
          then (u.box m).data.toList.take (u.config m).length else []) ∧
        t.box m = { u.box m with
          state := .sending
          again := false
          captured := some { data := (u.box m).data, cls := (u.box m).classSeen } })

/-- Arbitration lost, or a transmit error with attempts left: the entry goes back to its stamp position, with one more
attempt after an error; counter 103 or 104 counts, and the winner's frame is received (07, R117, R118; 06, R103, R104). -/
def Obligations.LostAttemptReturnsTheEntry : Prop :=
  (∀ (time : Nat) (winner : BusId) (e : Entry) (f : Frame) (s : State), s.inTime (16 * time) →
    let u := s.found (16 * time)
    u.bus.flight = some (.attempt e f) → winner < f.id → State.isCurrent u e → u.queueLaw →
      ∃ t, exec (.arbitrationLost time winner) s = .next t ∧
        t.tx.queued = Entry.putBack e u.tx.queued ∧ State.ownerWaits e.owner u t ∧
        t = { u with
          boxes := t.boxes
          tx := { u.tx with queued := t.tx.queued, replies := t.tx.replies }
          bus := { u.bus with line := .receiving, flight := none }
          counters := (u.count 103).counters }) ∧
  (∀ (time : Nat) (e : Entry) (f : Frame) (s : State), s.inTime (16 * time) →
    let u := s.found (16 * time)
    u.bus.flight = some (.attempt e f) → State.isCurrent u e → u.queueLaw →
    e.attempts + 1 < u.active.profile.retryLimit → u.bus.errors + 1 ≠ 32 →
      ∃ t, exec (.transmitError time) s = .next t ∧
        t.tx.queued = Entry.putBack { e with attempts := e.attempts + 1 } u.tx.queued ∧
        State.ownerWaits e.owner u t ∧
        t = { u with
          boxes := t.boxes
          tx := { u.tx with queued := t.tx.queued, replies := t.tx.replies }
          bus := { u.bus with line := .idle, flight := none, errors := u.bus.errors + 1 }
          counters := (u.count 104).counters })

/-- A transmit error that uses the last attempt abandons the entry, of any kind and generation: it leaves the queue for good,
and its owner is told; of an entry of an older generation no mailbox is (06, R106, R108; 05, R89, R90; 10, R176). What is
queued after it was queued before or is placed by this event. That an abandoned notice's own TX_ABANDON finds no NOTICE entry
in flight is log 29. Short of the 32nd error in a row the port stays ACTIVE with one error more (07, R118). -/
def Obligations.LastErrorAbandonsTheEntry : Prop :=
  ∀ (time : Nat) (e : Entry) (f : Frame) (s : State), s.inTime (16 * time) →
    let u := s.found (16 * time)
    let offers := Condition.txAbandon.isIn u.notices.latched = false ∧ Condition.txAbandon.isIn u.notices.enabled = true
    u.bus.flight = some (.attempt e f) → u.active.profile.retryLimit ≤ e.attempts + 1 →
      ∃ t, exec (.transmitError time) s = .next t ∧ t.bus.flight = none ∧ t.bus.line = .idle ∧
        (u.bus.errors + 1 ≠ 32 → t.bus = { u.bus with line := .idle, flight := none, errors := u.bus.errors + 1 }) ∧
        t.live 104 = satSucc (u.live 104) ∧ t.live 105 = satSucc (u.live 105) ∧
        Condition.txAbandon.isIn t.notices.latched = true ∧
        ((s.ripe (16 * time)).queueLaw → (∀ x ∈ u.tx.queued, x.stamp ≠ e.stamp) → ∀ x ∈ t.tx.queued, x.stamp ≠ e.stamp) ∧
        (∀ x ∈ t.tx.queued, x ∈ u.tx.queued ∨ (x.attempts = 0 ∧ 64 * u.tx.epoch ≤ x.stamp)) ∧
        (∀ x ∈ u.tx.queued, x ∈ t.tx.queued) ∧
        (∀ m : Fin 32, e.owner.isReportOf m = false → t.box m = u.box m) ∧
        (∀ m, e.owner = .report m (u.box m).generation →
          t.box m = { u.box m with state := if (u.box m).again then .pending else .quiet, captured := none } ∧
          t.live (counterC m) = satSucc (u.live (counterC m)) ∧ t.live (counterA m) = u.live (counterA m) ∧
          t.live (counterB m) = u.live (counterB m) ∧
          ((u.config m).attention = true → t.notices.attention.getLsbD m.val = true) ∧
          ((u.box m).again = true →
            ∃ x ∈ t.tx.queued, x.owner = .report m (u.box m).generation ∧ x.attempts = 0)) ∧
        (∀ m g, e.owner = .report m g → g ≠ (u.box m).generation →
          t.boxes = u.boxes ∧ (∀ k : Fin 111, k.val < 96 → t.live k = u.live k) ∧
          t.notices.attention = u.notices.attention ∧
          ((u.box m).state = .pending →
            ∃ x ∈ t.tx.queued, x.owner = .report m (u.box m).generation ∧ x.attempts = 0)) ∧
        (∀ k, e.owner = .reply k → t.live 110 = satSucc (u.live 110) ∧ (t.reply k).status = .free ∧
          (u.engine.waiting = some k → t.restartDue = true)) ∧
        (e.owner = .notice → t.notices.deferred = false ∧ t.notices.sequence = u.notices.sequence ∧
          (u.notices.deferred = true ∨ offers → t.hasQueued Owner.isNotice = true) ∧
          (u.notices.deferred = false → ¬ offers → u.bus.errors + 1 ≠ 32 → t.tx = u.tx)) ∧
        (e.owner = .discovery → t.tx.replies = u.tx.replies ∧
          ∀ x ∈ t.tx.queued, x ∈ u.tx.queued ∨ x.owner = .notice) ∧
        t = { u with
          boxes := t.boxes
          tx := t.tx
          bus := t.bus
          notices := { t.notices with enabled := u.notices.enabled, sequence := u.notices.sequence }
          counters := { u.counters with live := t.counters.live }
          restartDue := t.restartDue }

/-- The transmit error that makes 32 in a row puts the port in SILENT, after the queue has taken the outcome: an entry with
attempts left is back at its stamp position with one more attempt, its owner waiting, and one of an older generation is
retired, with `v` the state in which BUS_SILENT is then latched; one without is abandoned, as LastErrorAbandonsTheEntry says
at any error count (06, R104, R108; 07, R118, R120; 10, R174, R176). -/
def Obligations.ThirtySecondErrorSilencesThePort : Prop :=
  ∀ (time : Nat) (e : Entry) (f : Frame) (s : State), s.inTime (16 * time) →
    let u := s.found (16 * time)
    let old (m : Fin 32) (g : Byte) := e.owner = .report m g ∧ g ≠ (u.box m).generation
    u.bus.flight = some (.attempt e f) → u.bus.errors = 31 →
      ∃ t, exec (.transmitError time) s = .next t ∧
        t.bus = { u.bus with port := .silent, line := .idle, flight := none, errors := 32, goods := 0 } ∧
        t.live 106 = satSucc (u.live 106) ∧ t.live 104 = satSucc (u.live 104) ∧
        Condition.busSilent.isIn t.notices.latched = true ∧
        t = { u with
          boxes := t.boxes
          tx := t.tx
          bus := t.bus
          notices := { t.notices with enabled := u.notices.enabled, sequence := u.notices.sequence }
          counters := { u.counters with live := t.counters.live }
          restartDue := t.restartDue } ∧
        (e.attempts + 1 < u.active.profile.retryLimit → (s.ripe (16 * time)).queueLaw → ∃ v : State,
          v = { u with
            boxes := v.boxes
            tx := { u.tx with queued := v.tx.queued, replies := v.tx.replies }
            bus := t.bus
            counters := ((u.count 104).count 106).counters } ∧
          (State.isCurrent u e → State.ownerWaits e.owner u v ∧
            v.tx.queued = Entry.putBack { e with attempts := e.attempts + 1 } u.tx.queued) ∧
          (∀ m g, old m g → v.boxes = u.boxes ∧ v.tx.replies = u.tx.replies ∧
            u.placedInOrder (if (u.box m).state = .pending then [.report m (u.box m).generation] else []) v) ∧
          v.conditionEvent [] .busSilent True t ∧
          t = { v with
            tx := { v.tx with queued := t.tx.queued }
            notices := { u.notices with
              latched := t.notices.latched, deferred := t.notices.deferred, repeatCount := t.notices.repeatCount } })

/-- The completion of a report of the current generation (05, R88; 07, R119). With self-feed on, its frame is then offered to
the mailboxes as a received one is (02, R19, R23, R24). -/
def Obligations.ReportCompletes : Prop :=
  ∀ (time : Nat) (m : Fin 32) (e : Entry) (f : Frame) (s : State), s.inTime (16 * time) →
    let u := s.found (16 * time)
    let fed := u.active.profile.selfFeed = true
    u.bus.flight = some (.attempt e f) → e.owner = .report m (u.box m).generation → (u.config m).kind = .report →
    (s.ripe (16 * time)).queueLaw →
      ∃ t, exec (.completion time) s = .next t ∧
        t.box m = { u.box m with
          state := if (u.box m).again then .pending else .quiet
          lastSent := (u.box m).captured.getD (u.box m).lastSent
          age := 0
          captured := none } ∧
        t.live (counterA m) = satSucc (u.live (counterA m)) ∧ t.live (counterB m) = u.live (counterB m) ∧
        t.live (counterC m) = u.live (counterC m) ∧ (∀ k : Fin 111, 96 ≤ k.val → t.live k = u.live k) ∧
        (∀ j : Fin 32, j ≠ m → u.matchedAt f fed j t) ∧ u.matchMarks f fed t ∧
        u.conditionEvent (if (u.box m).again then [.report m (u.box m).generation] else []) .attention
          (u.matchAttends f fed) t ∧
        t = { u with
          boxes := t.boxes
          tx := { u.tx with queued := t.tx.queued }
          bus := { u.bus with line := .idle, flight := none, errors := 0 }
          engine := t.engine
          notices := { u.notices with
            latched := t.notices.latched, deferred := t.notices.deferred, repeatCount := t.notices.repeatCount
            attention := t.notices.attention }
          counters := { u.counters with live := t.counters.live } }

/-- A completed reply frees its entry, and lets a restart that waits for it be performed; a completed notice advances the
sequence number; a completed discovery reply only leaves (06, R105; 10, R176, R177). -/
def Obligations.OtherCompletions : Prop :=
  ∀ (time : Nat) (e : Entry) (f : Frame) (s : State), s.inTime (16 * time) →
    let u := s.found (16 * time)
    u.bus.flight = some (.attempt e f) →
      let done : State := { u with bus := { u.bus with line := .idle, flight := none, errors := 0 } }
      (∀ k, e.owner = .reply k → ∃ t, exec (.completion time) s = .next t ∧
        t = { done with
          tx := { u.tx with replies := t.tx.replies }
          restartDue := u.restartDue || decide (u.engine.waiting = some k) } ∧
        (t.reply k).status = .free ∧ ∀ j : Fin 4, j ≠ k → t.reply j = u.reply j) ∧
      (e.owner = .notice → u.notices.deferred = false →
        exec (.completion time) s = .next { done with
          notices := { u.notices with sequence := u.notices.sequence + 1 } }) ∧
      (e.owner = .notice → u.notices.deferred = true → (∀ x ∈ u.tx.queued, x.owner.isNotice = false) →
        (s.ripe (16 * time)).queueLaw →
        ∃ t, exec (.completion time) s = .next t ∧ u.placedBehind .notice t ∧
          t = { done with
            tx := { u.tx with queued := t.tx.queued }
            notices := { u.notices with sequence := u.notices.sequence + 1, deferred := false, repeatCount := 0 } }) ∧
      (e.owner = .discovery → exec (.completion time) s = .next done)

/-- The outcome of an entry of an older generation retires it: its mailbox keeps everything, and a PENDING one gets its entry
now (06, R108; 05, R90). A completion is still offered to the mailboxes when self-feed is on (02, R19); the port counts the
outcome as any other (07, R117, R118, R119). -/
def Obligations.OldGenerationIsRetired : Prop :=
  ∀ (time : Nat) (m : Fin 32) (g : Byte) (e : Entry) (f : Frame) (s : State), s.inTime (16 * time) →
    let u := s.found (16 * time)
    let fed := u.active.profile.selfFeed = true
    let placed : List Owner := if (u.box m).state = .pending then [.report m (u.box m).generation] else []
    u.bus.flight = some (.attempt e f) → e.owner = .report m g → g ≠ (u.box m).generation →
    (s.ripe (16 * time)).queueLaw →
      (∃ t, exec (.completion time) s = .next t ∧
        (∀ j : Fin 32, u.matchedAt f fed j t) ∧ u.matchMarks f fed t ∧
        u.conditionEvent placed .attention (u.matchAttends f fed) t ∧
        (∀ k : Fin 111, 96 ≤ k.val → t.live k = u.live k) ∧
        t = { u with
          boxes := t.boxes
          tx := { u.tx with queued := t.tx.queued }
          bus := { u.bus with line := .idle, flight := none, errors := 0 }
          engine := t.engine
          notices := { u.notices with
            latched := t.notices.latched, deferred := t.notices.deferred, repeatCount := t.notices.repeatCount
            attention := t.notices.attention }
          counters := { u.counters with live := t.counters.live } }) ∧
      (∀ w, w < f.id → ∃ t, exec (.arbitrationLost time w) s = .next t ∧ u.placedInOrder placed t ∧
        t = { u with
          tx := { u.tx with queued := t.tx.queued }
          bus := { u.bus with line := .receiving, flight := none }
          counters := (u.count 103).counters }) ∧
      (e.attempts + 1 < u.active.profile.retryLimit → u.bus.errors + 1 ≠ 32 →
        ∃ t, exec (.transmitError time) s = .next t ∧ u.placedInOrder placed t ∧
          t = { u with
            tx := { u.tx with queued := t.tx.queued }
            bus := { u.bus with line := .idle, flight := none, errors := u.bus.errors + 1 }
            counters := (u.count 104).counters })

/-- The outcome of a finishing frame is discarded (07, R123). -/
def Obligations.FinishingOutcomeIsDiscarded : Prop :=
  ∀ (time : Nat) (o : AttemptOutcome) (f : Frame) (s : State), s.inTime (16 * time) →
    let u := s.found (16 * time)
    u.bus.flight = some (.finishing f) →
      exec (.finishingFrameOutcome time o) s = .next { u with
        bus := { u.bus with line := if o = .arbitrationLost then .receiving else .idle, flight := none } }

/-! ### The ring port -/

/-- In HUNT a good mark becomes the reference and a bad one is discarded. In CONFIRM a bad one is discarded too, a good mark
numbered one after the reference, at most 65535 microseconds after it, brings LOCKED, and another good mark replaces the
reference (04, R60, R61, R62). A follower re-emits the confirming mark, stops its timer and takes the works of the mark's
boundary; a master does none of these, and reads the round (04, R66; 03, R46). A round whose slots have not all arrived is
cut first (04, R65; logs 19 and 26). That the interval is at least 1 microsecond is the model's reading (log 21). -/
def Obligations.LockIsLearntFromTwoMarks : Prop :=
  (∀ (time : Nat) (m : RoundMark) (order : BoundaryOrder) (s : State), s.markInTime time →
    let u := (s.found (16 * time)).roundCut
    u.held = false → u.ring.lock = .hunt →
      (GoodMark m → State.judges u m → exec (.roundMarkArrival time m order) s = .next { u with
        ring := { u.ring with lock := .confirm, reference := some { number := m.number, time := time } } }) ∧
      (¬ GoodMark m → exec (.roundMarkArrival time m order) s = .next u)) ∧
  (∀ (time : Nat) (m : RoundMark) (order : BoundaryOrder) (r : Reference) (s : State), s.markInTime time →
    let u := (s.found (16 * time)).roundCut
    let confirms := m.number = r.number + 1 ∧ r.time < time ∧ time - r.time ≤ 65535
    let counted := (u.count 96).counters
    u.held = false → u.ring.lock = .confirm → u.ring.reference = some r →
      (GoodMark m → u.role = .follower → confirms → ∃ v t, exec (.roundMarkArrival time m order) s = .next t ∧
        v = { u with
          ring := { u.ring.accepts time (time - r.time) m .follow with timer := none, current := m.number }
          rout := u.rout ++ [.mark m], counters := counted, tx := v.tx, notices := v.notices } ∧
        Condition.ringLocked.isIn v.notices.latched = true ∧
        State.boundaryRuns m.number .acceptedMark order.complete v t) ∧
      (GoodMark m → u.role = .master → m.number ∈ u.ring.emitted → confirms →
        ∃ t, exec (.roundMarkArrival time m order) s = .next t ∧ Condition.ringLocked.isIn t.notices.latched = true ∧
          t = { u with
            ring := u.ring.accepts time (time - r.time) m .returned
            counters := counted, tx := t.tx, notices := t.notices }) ∧
      (GoodMark m → State.judges u m → ¬ confirms → exec (.roundMarkArrival time m order) s = .next { u with
        ring := { u.ring with reference := some { number := m.number, time := time } } }) ∧
      (¬ GoodMark m → exec (.roundMarkArrival time m order) s = .next u))

/-- In LOCKED a good mark numbered X inside the window is accepted: a follower re-emits it and takes the works of the
boundary of its number (04, R62, R70), a master reads its round and raises no boundary (04, R66; 03, R46). A round whose
slots have not all arrived is cut first (04, R65; logs 19 and 26). The mark is counted before the works (log 31). -/
def Obligations.MarkInWindowIsAccepted : Prop :=
  ∀ (time e p : Nat) (m : RoundMark) (order : BoundaryOrder) (s : State), s.markInTime time →
    let u := (s.found (16 * time)).roundCut
    let counted := (u.count 96).counters
    u.held = false → u.ring.lock = .locked → u.ring.expected = some e → u.ring.period = some p → GoodMark m →
    m.number = u.ring.expectedNumber → 16 * e ≤ 16 * time + p → 16 * time ≤ 16 * e + p →
      (u.role = .follower → ∃ v t, exec (.roundMarkArrival time m order) s = .next t ∧
        v = { u with
          ring := { u.ring.accepts time p m .follow with current := m.number }
          rout := u.rout ++ [.mark m], counters := counted } ∧
        State.boundaryRuns m.number .acceptedMark order.complete v t) ∧
      (u.role = .master → m.number ∈ u.ring.emitted → exec (.roundMarkArrival time m order) s = .next { u with
        ring := u.ring.accepts time p m .returned, counters := counted })

/-- A miss, short of the third, moves E and X as the table of R63 says: the four kinds of mark, and a window that closes with
no mark in it (04, R62, R63). A round whose slots have not all arrived is cut first (04, R65; logs 19 and 26). After the
close of a window no mark arrives at its bound: the close is taken after such a mark (04, R62; log 32). -/
def Obligations.MissesMoveTheWindow : Prop :=
  (∀ (time e p : Nat) (m : RoundMark) (order : BoundaryOrder) (s : State), s.markInTime time →
    let u := (s.found (16 * time)).roundCut
    let inside := 16 * e ≤ 16 * time + p ∧ 16 * time ≤ 16 * e + p
    u.held = false → u.ring.lock = .locked → u.ring.expected = some e → u.ring.period = some p →
    u.ring.misses < 2 →
      (¬ GoodMark m → inside → exec (.roundMarkArrival time m order) s = .next { u with
        ring := { u.ring with
          expected := some (e + p), expectedNumber := u.ring.expectedNumber + 1, misses := u.ring.misses + 1 }
        counters := (u.count 97).counters }) ∧
      (GoodMark m → State.judges u m → inside → m.number ≠ u.ring.expectedNumber →
        exec (.roundMarkArrival time m order) s = .next { u with
          ring := { u.ring with
            expected := some (e + p), expectedNumber := m.number + 1, misses := u.ring.misses + 1 }
          counters := (u.count 97).counters }) ∧
      (GoodMark m → State.judges u m → ¬ inside →
        exec (.roundMarkArrival time m order) s = .next { u with
          ring := { u.ring with expectedNumber := m.number + 1, misses := u.ring.misses + 1 }
          counters := (u.count 97).counters }) ∧
      (¬ GoodMark m → ¬ inside → exec (.roundMarkArrival time m order) s = .next { u with
        ring := { u.ring with misses := u.ring.misses + 1 }
        counters := (u.count 97).counters })) ∧
  (∀ (e p : Nat) (s : State), s.quiet = true → s.inOrder (16 * e + p) = true →
    let u := (s.found (16 * e + p)).roundCut
    u.held = false → u.ring.lock = .locked → u.ring.expected = some e → u.ring.period = some p →
    u.ring.misses < 2 →
      exec .windowClose s = .next { u with
        windowClosed := some (16 * e + p)
        ring := { u.ring with
          expected := some (e + p), expectedNumber := u.ring.expectedNumber + 1, misses := u.ring.misses + 1 }
        counters := (u.count 97).counters }) ∧
  (∀ (time : Nat) (m : RoundMark) (order : BoundaryOrder) (s : State), s.boundary = none → s.restartDue = false →
    s.now = 16 * time → s.windowClosed = some (16 * time) → exec (.roundMarkArrival time m order) s = .next s)

/-- The third miss in a row loses the lock, whatever the miss: a bad mark, a good mark of another number or outside the
window, a foreign mark, or the close of a window (04, R63, R64, R67, R68, R71). A round whose slots have not all arrived is
cut first (04, R65; logs 19 and 26). -/
def Obligations.ThirdMissLosesTheLock : Prop :=
  (∀ (time e p : Nat) (m : RoundMark) (order : BoundaryOrder) (s : State), s.markInTime time →
    let u := (s.found (16 * time)).roundCut
    let inside := 16 * e ≤ 16 * time + p ∧ 16 * time ≤ 16 * e + p
    let foreign := GoodMark m ∧ u.role = .master ∧ m.number ∉ u.ring.emitted
    u.held = false → u.ring.lock = .locked → u.ring.expected = some e → u.ring.period = some p → u.ring.misses = 2 →
    ¬ GoodMark m ∨ foreign ∨ (State.judges u m ∧ (m.number ≠ u.ring.expectedNumber ∨ ¬ inside)) →
      ∃ t, exec (.roundMarkArrival time m order) s = .next t ∧ State.losesLock u t ∧
        (foreign → Condition.ringForeign.isIn t.notices.latched = true)) ∧
  (∀ (e p : Nat) (s : State), s.quiet = true → s.inOrder (16 * e + p) = true →
    let u := (s.found (16 * e + p)).roundCut
    u.held = false → u.ring.lock = .locked → u.ring.expected = some e → u.ring.period = some p → u.ring.misses = 2 →
      ∃ t, exec .windowClose s = .next t ∧ State.losesLock { u with windowClosed := some (16 * e + p) } t)

/-- A good mark that the master did not emit is foreign: counted, latched, never a reference and never accepted; in LOCKED
it is a miss (04, R67). A round whose slots have not all arrived is cut first (04, R65; logs 19 and 26). -/
def Obligations.ForeignMarkIsDiscarded : Prop :=
  ∀ (time : Nat) (m : RoundMark) (order : BoundaryOrder) (s : State), s.markInTime time →
    let u := (s.found (16 * time)).roundCut
    u.held = false → u.role = .master → GoodMark m → m.number ∉ u.ring.emitted →
      ∃ t, exec (.roundMarkArrival time m order) s = .next t ∧
        t.live 97 = satSucc (u.live 97) ∧ t.live 96 = u.live 96 ∧
        Condition.ringForeign.isIn t.notices.latched = true ∧
        (u.ring.lock ≠ .locked → t = { u with
          notices := t.notices, tx := t.tx, counters := (u.count 97).counters }) ∧
        (∀ e p, u.ring.lock = .locked → u.ring.expected = some e → u.ring.period = some p → u.ring.misses < 2 →
          t = { u with
            ring := { u.ring with
              expected :=
                if 16 * e ≤ 16 * time + p ∧ 16 * time ≤ 16 * e + p then some (e + p) else u.ring.expected
              expectedNumber := m.number + 1
              misses := u.ring.misses + 1 }
            notices := t.notices
            tx := t.tx
            counters := (u.count 97).counters })

/-- The first byte of a slot at a DRIVE position of a round a follower re-emits drives the mailbox; at any other position
it only begins the slot (03, R50; 02, R26), and outside an accepted round it changes nothing (03, R48; log 8). -/
def Obligations.SlotStartDrives : Prop :=
  (∀ (time : Nat) (r : InRound) (s : State), s.inTime (16 * time) →
    let u := s.found (16 * time)
    let m := (u.active.slot r.arrived).mailbox
    let drives := r.use = .follow ∧ (u.active.slot r.arrived).role = .drive
    u.ring.inRound = some r → r.started = false →
      (drives → ∃ b : SlotBytes, u.builds m b ∧ exec (.incomingSlotStart time) s = .next { u with
        ring := { u.ring with inRound := some { r with started := true, driven := some b } }
        boxes := u.boxes.set m (u.box m).driven }) ∧
      (¬ drives → exec (.incomingSlotStart time) s = .next { u with
        ring := { u.ring with inRound := some { r with started := true, driven := none } } })) ∧
  (∀ (time : Nat) (s : State), s.inTime (16 * time) →
    let u := s.found (16 * time)
    u.ring.inRound = none → exec (.incomingSlotStart time) s = .next u)

/-- The last byte of a LISTEN slot of an accepted round: a good slot is handed to its report mailbox, whose change tests
decide whether it triggers and whose attention test follows; a bad one is counted; a follower re-emits either unchanged. A
slot the ring port does not read only goes out, as the round's use says, or the driven slot in its place (03, R38, R46, R49,
R50, R51, R53, R54; 05, R77, R78, R80 to R82, R85, R91; 08, R140; 10, R182). Outside an accepted round a slot changes nothing
(03, R48; log 8). -/
def Obligations.SlotArrivals : Prop :=
  (∀ (time : Nat) (b : SlotBytes) (r : InRound) (s : State), s.inTime (16 * time) →
    let u := s.found (16 * time)
    let m := (u.active.slot r.arrived).mailbox
    u.ring.inRound = some r → r.started = true → r.driven = none → r.use ≠ .passThrough →
    (u.active.slot r.arrived).role = .listen →
      ∃ t, exec (.slotArrival time b) s = .next t ∧
        t = { u with
          ring := { u.ring with
            inRound := if r.arrived + 1 < r.slots then some { r with arrived := r.arrived + 1, started := false }
              else none }
          rout := if r.use = .follow then u.rout ++ [.slot r.arrived b] else u.rout
          boxes := t.boxes
          tx := t.tx
          engine := t.engine
          notices := t.notices
          counters := { u.counters with live := t.counters.live } } ∧
        (GoodSlot b →
          let box : Runtime := { u.box m with
            data := b.data
            dataLength := b.head.toNat % 16
            classSeen := match b.head.toNat / 16 with
              | 0 => .void
              | 1 => .live
              | 2 => .live
              | _ => .stale }
          let places := Triggers (u.config m) box (u.box m).classSeen ∧
            ((u.box m).state = .void ∨ (u.box m).state = .quiet) ∧ u.hasInFlight (Owner.isReportOf m) = false
          let marks := State.marksAttention m box u
          State.tested m box u t ∧
          (∀ j : Fin 32, j ≠ m → t.box j = u.box j) ∧ (∀ k : Fin 111, k ≠ counterB m → t.live k = u.live k) ∧
          t.engine = { u.engine with hold := { u.engine.hold with
            changed := u.engine.hold.changed ||
              (u.engine.hold.valid && decide (u.engine.hold.mailbox = m) && decide ((u.box m).data ≠ b.data)) } } ∧
          t.tx.replies = u.tx.replies ∧
          ((s.ripe (16 * time)).queueLaw → places → ¬ marks → u.placedBehind (.report m (u.box m).generation) t) ∧
          (¬ places → ¬ marks → t.tx = u.tx) ∧ (¬ marks → t.notices = u.notices) ∧
          (marks → t.notices.attention = u.notices.attention ||| BitVec.twoPow 32 m.val ∧
            (u.notices.attention = 0 → Condition.attention.isIn t.notices.latched = true) ∧
            (u.notices.attention ≠ 0 → t.notices.latched = u.notices.latched))) ∧
        (¬ GoodSlot b → t.boxes = u.boxes ∧ t.engine = u.engine ∧ t.counters = (u.count 98).counters ∧
          Condition.slotCheck.isIn t.notices.latched = true)) ∧
  (∀ (time : Nat) (b : SlotBytes) (r : InRound) (s : State), s.inTime (16 * time) →
    let u := s.found (16 * time)
    u.ring.inRound = some r → r.started = true →
    r.use = .passThrough ∨ (u.active.slot r.arrived).role ≠ .listen →
      exec (.slotArrival time b) s = .next { u with
        ring := { u.ring with
          inRound := if r.arrived + 1 < r.slots
            then some { r with arrived := r.arrived + 1, started := false, driven := none } else none }
        rout := match r.use with
          | .follow => u.rout ++ [.slot r.arrived (r.driven.getD b)]
          | .passThrough => u.rout ++ [.slot r.arrived b]
          | .returned => u.rout }) ∧
  (∀ (time : Nat) (b : SlotBytes) (s : State), s.inTime (16 * time) →
    let u := s.found (16 * time)
    u.ring.inRound = none → exec (.slotArrival time b) s = .next u)

/-- An expiry of the master round timer numbers the round, cuts a round still passing through, and takes the works of the
boundary of that number; an expiry of the local round timer takes those of the next number. A boundary that waits for no step
re-arms the timer, and a master's begins the round with its mark (04, R57, R58, R59, R69, R70, R73; 03, R45). A master's
first expiry gives number 0 also at the boundary that swaps the part back to follower (log 18); the slots follow as time
passes (log 7). An order lists each work once, and an ill-formed one is completed (log 23). -/
def Obligations.TimersRaiseBoundaries : Prop :=
  (∀ (w : Nat) (order : BoundaryOrder) (s : State), s.quiet = true → s.inOrder w = true →
    let u := s.found w
    let number : Byte := match u.ring.emitted.getLast? with
      | none => 0
      | some n => n + 1
    let p := u.active.profile.roundPeriod
    let slots := u.active.profile.slotCount.toNat
    u.held = false → u.role = .master → u.ring.timer.map (fun x => x.next) = some w →
      ∃ v t, exec (.roundTimerExpiry order) s = .next t ∧
        ((∀ r, u.ring.inRound = some r → r.use ≠ .passThrough) →
          v = { u with ring := { u.ring with current := number } }) ∧
        (∀ r, u.ring.inRound = some r → r.use = .passThrough → v = { u with
          ring := { u.ring with current := number, inRound := none }
          rout := u.rout ++ if r.started = true then [.partialSlot r.arrived] else [] }) ∧
        State.boundaryRuns number .masterTimer order.complete v t ∧
        t.ring.current = number ∧ t.active = u.active ∧ t.ring.lock = u.ring.lock ∧
        (t.boundary = none →
          t.ring.timer = some { period := p, next := w + 16 * p } ∧ t.ring.emitted.getLast? = some number ∧
          t.ring.outRound = some { start := w, slots := slots, next := 0, sending := none, mark := {
            pattern := 0xE7, number := number, count := BitVec.ofNat 8 slots
            check := number ^^^ BitVec.ofNat 8 slots ^^^ 0x5A } })) ∧
  (∀ (w : Nat) (order : BoundaryOrder) (s : State), s.quiet = true → s.inOrder w = true →
    let u := s.found w
    let p := u.active.profile.roundPeriod
    u.held = false → u.role = .follower → u.ring.timer.map (fun x => x.next) = some w →
      ∃ t, exec (.localRoundTimerExpiry order) s = .next t ∧
        State.boundaryRuns (u.ring.current + 1) .localTimer order.complete
          { u with ring := { u.ring with current := u.ring.current + 1 } } t ∧
        t.ring.current = u.ring.current + 1 ∧ t.rout = u.rout ∧ t.active = u.active ∧ t.ring.lock = u.ring.lock ∧
        (t.boundary = none → t.ring.timer = some { period := p, next := w + 16 * p })) ∧
  ∀ order : BoundaryOrder, order.complete.Perm
      [.feedAgeing, .reportAgeing, .session, .snapshotCount, .noticeRepeat] ∧
    (order.Perm [.feedAgeing, .reportAgeing, .session, .snapshotCount, .noticeRepeat] → order.complete = order)

/-- Feed ageing at a boundary: FRESH and HELD age by one and go STALE when the age reaches a non-zero limit; every other
mailbox keeps everything (02, R29, R30). -/
def Obligations.FeedAgeing : Prop :=
  ∀ (s : State) (m : Fin 32),
    let t := (s.work .feedAgeing).1
    let age := satSucc (s.box m).age
    let ages := (s.config m).kind = .feed ∧ ((s.box m).state = .fresh ∨ (s.box m).state = .held)
    let stales := (s.config m).limit ≠ 0 ∧ age = (s.config m).limit
    (ages → stales → t.box m = { s.box m with age := age, state := .stale } ∧
      t.live (counterC m) = satSucc (s.live (counterC m)) ∧
      ((s.config m).attention = true → t.notices.attention.getLsbD m.val = true)) ∧
    (ages → ¬ stales → t.box m = { s.box m with age := age } ∧ t.live (counterC m) = s.live (counterC m)) ∧
    (¬ ages → t.box m = s.box m ∧ t.live (counterC m) = s.live (counterC m)) ∧
    t.ring = s.ring ∧ t.bus = s.bus ∧ t.engine = s.engine ∧ t.active = s.active ∧ t.staging = s.staging

/-- Report ageing at a boundary: a mailbox not VOID ages by one, and a QUIET one whose age has reached its interval triggers,
but for a degraded class under SUPPRESS (05, R83, R85). -/
def Obligations.ReportAgeingAndHeartbeat : Prop :=
  ∀ (s : State) (m : Fin 32),
    let t := (s.work .reportAgeing).1
    let age := satSucc (s.box m).age
    let ages := (s.config m).kind = .report ∧ (s.box m).state ≠ .void
    let beats := (s.config m).limit ≠ 0 ∧ (s.config m).limit ≤ age ∧ (s.box m).state = .quiet ∧
      ((s.box m).classSeen = .live ∨
        ((s.box m).classSeen.degraded = true ∧ (s.config m).degraded ≠ .suppress))
    (ages → beats → t.box m = { s.box m with age := age, state := .pending } ∧
      (s.hasInFlight (Owner.isReportOf m) = false →
        ∃ x ∈ t.tx.queued, x.owner = .report m (s.box m).generation ∧ x.attempts = 0)) ∧
    (ages → ¬ beats → t.box m = { s.box m with age := age }) ∧
    (¬ ages → t.box m = s.box m) ∧
    t.counters = s.counters ∧ t.notices = s.notices ∧ t.ring = s.ring ∧ t.bus = s.bus ∧ t.engine = s.engine ∧
    t.active = s.active ∧ t.staging = s.staging

/-! ### The steps a boundary brings about -/

/-- The swap of a pending commit: the state `v` it leaves, from which the boundary goes on (09, R167, R168, R169; 01, R12). A
swap that changes the role ends the lock of the old role, latching RING_LOST and giving class LOST if it was LOCKED, and
starts the timer anew (04, R72, R73, R74; 03, R47, R53). -/
def Obligations.SwapInstallsTheStagingImage : Prop :=
  ∀ (b : Boundary) (c : PendingCommit) (s : State), s.boundary = some b → b.due = .swap → s.engine.commit = some c →
    let old := s.active.profile
    let new := s.staging.profile
    let swapped : State := { s with active := s.staging }
    let begun (round : Option InRound) (x : Byte) : RingPort := { s.ring with
      lock := .hunt, reference := none, period := none, expected := none, expectedNumber := x, misses := 0
      emitted := [], inRound := round
      timer := some { period := new.roundPeriod, next := s.now + 16 * new.roundPeriod } }
    ∃ v t, exec .swap s = .next t ∧ State.boundaryRuns b.number b.cause b.rest v t ∧
      t.active = s.staging ∧ t.staging = s.staging ∧ t.bus = s.bus ∧
      v = { s with
        active := s.staging
        boundary := none
        boxes := v.boxes
        ring := v.ring
        tx := v.tx
        engine := { s.engine with
          owner := none, idle := 0, commit := none, lastCommit := some c.tag
          hold := { s.engine.hold with valid := v.engine.hold.valid } }
        notices := { v.notices with enabled := s.notices.enabled, sequence := s.notices.sequence }
        counters := { s.counters with live := v.counters.live, interval := v.counters.interval } } ∧
      v.reply c.entry =
        { status := .queued, content := { code := 0x0E, tag := c.tag, result := .ok, data := [b.number] } } ∧
      (∀ k : Fin 4, k ≠ c.entry → v.reply k = s.reply k) ∧
      (∃ x ∈ v.tx.queued, x.owner = .reply c.entry ∧ x.attempts = 0) ∧
      Condition.commitDone.isIn v.notices.latched = true ∧
      (∀ m : Fin 32, s.active.changes s.staging m →
        v.box m = { Runtime.reset with generation := (s.box m).generation + 1 } ∧
        v.live (counterA m) = 0 ∧ v.live (counterB m) = 0 ∧ v.live (counterC m) = 0 ∧
        v.notices.attention.getLsbD m.val = false ∧
        (∀ x ∈ v.tx.queued, x.owner.isReportOf m = false) ∧
        (s.engine.hold.mailbox = m → v.engine.hold.valid = false)) ∧
      (∀ m : Fin 32, ¬ s.active.changes s.staging m →
        v.live (counterA m) = s.live (counterA m) ∧ v.live (counterC m) = s.live (counterC m) ∧
        (∀ x ∈ s.tx.queued, x.owner.isReportOf m = true → x ∈ v.tx.queued) ∧
        (s.engine.hold.mailbox = m → v.engine.hold.valid = s.engine.hold.valid) ∧
        (old.role ≠ new.role ∧ s.ring.lock = .locked ∧ State.dependsOnLock swapped m →
          State.tested m { s.box m with classSeen := .lost } swapped v) ∧
        (¬ (old.role ≠ new.role ∧ s.ring.lock = .locked ∧ State.dependsOnLock swapped m) →
          v.box m = s.box m ∧ v.live (counterB m) = s.live (counterB m) ∧
          v.notices.attention.getLsbD m.val = s.notices.attention.getLsbD m.val)) ∧
      (∀ k : Fin 111, 96 ≤ k.val → v.live k = s.live k) ∧
      v.counters.interval = (if old.snapshotInterval = new.snapshotInterval then s.counters.interval else 0) ∧
      (old.noticeRepeat ≠ new.noticeRepeat → v.notices.repeatCount = 0) ∧
      (old.noticeRepeat = new.noticeRepeat → v.notices.repeatCount = s.notices.repeatCount ∨
        (v.notices.repeatCount = 0 ∧ v.hasQueued Owner.isNotice = true)) ∧
      (old.role ≠ new.role → s.ring.lock = .locked → Condition.ringLost.isIn v.notices.latched = true) ∧
      (old.role = .follower → new.role = .follower → v.ring = s.ring) ∧
      (old.role = .master → new.role = .master → v.ring = { s.ring with inRound := none }) ∧
      (old.role = .follower → new.role = .master → v.ring =
        begun (s.ring.inRound.map (fun r => { r with use := .passThrough })) v.ring.expectedNumber) ∧
      (old.role = .master → new.role = .follower → v.ring = begun none v.ring.expectedNumber)

/-- The counts of a boundary. The idle count of an open session without a pending commit advances and makes the expiry due
at the limit, and a pending commit makes its swap due (09, R159, R167); the snapshot interval count advances while the
interval is not 0 and is due on reaching it (10, R186); the notice repeat count advances while all three conditions hold,
is due on reaching 16 times the repeat, and becomes 0 when one fails (10, R178). Then the steps due: an edit session expires
(09, R159), a snapshot is taken (10, R185), a NOTICE entry is placed (10, R176); from the state `v` that each leaves the
boundary goes on. -/
def Obligations.CountsExpireAtABoundary : Prop :=
  (∀ s : State,
    let idle := s.engine.idle + 1
    let limit := s.active.profile.idleLimit
    ((∃ c, s.engine.commit = some c) → s.work .session = (s, some .swap)) ∧
    (s.engine.commit = none → s.engine.owner = none → s.work .session = (s, none)) ∧
    (∀ o, s.engine.commit = none → s.engine.owner = some o → s.work .session =
      ({ s with engine := { s.engine with idle := idle } }, if idle = limit then some .sessionExpiry else none))) ∧
  (∀ s : State,
    let n := s.counters.interval + 1
    let interval := s.active.profile.snapshotInterval
    (interval = 0 → s.work .snapshotCount = (s, none)) ∧
    (interval ≠ 0 → s.work .snapshotCount =
      ({ s with counters := { s.counters with interval := n } }, if interval ≤ n then some .snapshotExpiry else none))) ∧
  (∀ s : State,
    let n := s.notices.repeatCount + 1
    let repeats := s.active.profile.noticeRepeat
    let counting := repeats ≠ 0 ∧ s.notices.latched &&& s.notices.enabled ≠ 0 ∧ s.hasQueued Owner.isNotice = false ∧
      s.hasInFlight Owner.isNotice = false
    (counting → s.work .noticeRepeat =
      ({ s with notices := { s.notices with repeatCount := n } }, if repeats * 16 ≤ n then some .repeatExpiry else none)) ∧
    (¬ counting → s.work .noticeRepeat = ({ s with notices := { s.notices with repeatCount := 0 } }, none))) ∧
  (∀ (b : Boundary) (s : State), s.boundary = some b → b.due = .sessionExpiry →
    ∃ v t, exec .sessionExpiry s = .next t ∧ State.boundaryRuns b.number b.cause b.rest v t ∧
      v = { s with
        staging := s.active
        boundary := none
        engine := { s.engine with owner := none, idle := 0 }
        tx := { s.tx with queued := v.tx.queued }
        notices := { s.notices with
          latched := v.notices.latched, deferred := v.notices.deferred, repeatCount := v.notices.repeatCount } } ∧
      Condition.sessionExpired.isIn v.notices.latched = true) ∧
  (∀ (b : Boundary) (s : State), s.boundary = some b → b.due = .snapshotExpiry →
    ∃ v t, exec .snapshotIntervalExpiry s = .next t ∧ State.boundaryRuns b.number b.cause b.rest v t ∧
      v = { s with
        boundary := none
        counters := {
          live := Vector.replicate 111 0, snap := s.counters.live, sequence := s.counters.sequence + 1, interval := 0 }
        tx := { s.tx with queued := v.tx.queued }
        notices := { s.notices with
          latched := v.notices.latched, deferred := v.notices.deferred, repeatCount := v.notices.repeatCount } } ∧
      Condition.snapshotReady.isIn v.notices.latched = true) ∧
  (∀ (b : Boundary) (s : State), s.boundary = some b → b.due = .repeatExpiry →
    s.hasQueued Owner.isNotice = false → s.hasInFlight Owner.isNotice = false →
    ∃ v t, exec .noticeRepeatExpiry s = .next t ∧ State.boundaryRuns b.number b.cause b.rest v t ∧
      v = { s with
        boundary := none
        tx := { s.tx with queued := v.tx.queued }
        notices := { s.notices with repeatCount := 0 } } ∧
      (∃ e ∈ v.tx.queued, e.owner = .notice ∧ e.attempts = 0) ∧
      ∀ x ∈ s.tx.queued, x ∈ v.tx.queued)

/-! ### The management requests -/

/-- PROBE changes no state and is answered with the five bytes of R137. -/
def Obligations.ProbeReports : Prop :=
  ∀ (r : Request) (rest : List Request) (s : State),
    let u := s.finish
    u.takes .probe r rest → u.queueLaw →
      ∃ t, exec .probe s = .next t ∧ State.onlyAnswers rest u t ∧
        u.replied r .ok
          [0x21, (if u.role = .master then 1 else 0),
            (match u.ring.lock with
              | .hunt => 0
              | .confirm => 1
              | .locked => 2),
            (if u.bus.port = .silent then 1 else 0),
            (if u.engine.owner = none then 0 else if u.engine.commit = none then 1 else 2) +
              (if u.notices.latched &&& u.notices.enabled = 0 then 0 else 16)] t

/-- RESUME_BUS at its take is answered OK, an unrecognised code UNKNOWN, and READ_NOTICES with the two sets; none changes
any other state (08, R130, R145; 10, R179). -/
def Obligations.PlainRequestsOnlyAnswer : Prop :=
  ∀ (r : Request) (rest : List Request) (s : State),
    let u := s.finish
    u.queueLaw →
      (u.takes .resumeBus r rest → ∃ t, exec .resumeBus s = .next t ∧ State.onlyAnswers rest u t ∧ u.replied r .ok [] t) ∧
      (u.takes .unknownRequest r rest → ∃ t, exec .unknownRequest s = .next t ∧ State.onlyAnswers rest u t ∧
        u.replied r .unknown [] t) ∧
      (u.takes .readNotices r rest → ∃ t, exec .readNotices s = .next t ∧ State.onlyAnswers rest u t ∧
        u.replied r .ok [u.notices.latched.setWidth 8, (u.notices.latched >>> 8).setWidth 8,
          u.notices.enabled.setWidth 8, (u.notices.enabled >>> 8).setWidth 8] t)

/-- DISCOVER places one DISCOVERY entry when it calls the part and none exists, and has no effect otherwise; a broadcast
request that is not one of the three is counted as malformed (08, R130, R133). -/
def Obligations.DiscoverCallsThePart : Prop :=
  ∀ (r : Request) (rest : List Request) (s : State),
    let u := s.finish
    let none_exists := u.hasQueued Owner.isDiscovery = false ∧ u.hasInFlight Owner.isDiscovery = false
    let called := r.byte 2 ≠ 0 ∨ u.engine.node = 0
    (u.takes .discover r rest → u.queueLaw →
      (called ∧ none_exists → ∃ t, exec .discover s = .next t ∧ State.onlyAnswers rest u t ∧
        u.placedBehind .discovery t ∧ t.tx.replies = u.tx.replies) ∧
      (¬ (called ∧ none_exists) → exec .discover s = .next (State.taken rest u))) ∧
    (u.takes .broadcastDiscard r rest →
      exec .broadcastDiscard s = .next { State.taken rest u with counters := ((u.count 107).count 109).counters })

/-- ASSIGN with another serial has no effect; with the part's own it sets the node number, a non-zero number is answered if a
reply entry is FREE, and a change from 0 under an enabled latched condition makes one offer (08, R135; 10, R176). -/
def Obligations.AssignSetsTheNode : Prop :=
  ∀ (r : Request) (rest : List Request) (s : State),
    let u := s.finish
    let own := (r.data.drop 2).take 6 = u.engine.serial.toList
    let offers := u.engine.node = 0 ∧ u.enabledLatched ≠ 0
    u.takes .assign r rest → u.queueLaw →
      (¬ own → exec .assign s = .next (State.taken rest u)) ∧
      (own → ∃ t, exec .assign s = .next t ∧ t.engine.node.toNat = r.tag.toNat ∧
        t = { u with
          tx := t.tx
          engine := { u.engine with requests := rest, node := t.engine.node }
          notices := { u.notices with repeatCount := t.notices.repeatCount, deferred := t.notices.deferred }
          counters := t.counters } ∧
        (r.tag = 0 → t.tx.replies = u.tx.replies ∧ u.offered [] False t ∧ t.counters = (u.count 107).counters) ∧
        (∀ k, r.tag ≠ 0 → u.freeReply = some k →
          t.tx.replies = u.tx.replies.set k
            { status := .queued, content := { code := 0x03, tag := 0, result := .ok, data := [] } } ∧
          u.offered [.reply k] offers t ∧ t.counters = (u.count 107).counters) ∧
        (r.tag ≠ 0 → u.freeReply = none → t.tx.replies = u.tx.replies ∧ u.offered [] offers t ∧
          t.counters = ((u.count 107).count 110).counters))

/-- READ_CONFIG reads a field of the staging or the active image and changes no state (08, R138, R139). -/
def Obligations.ReadConfigReadsAnImage : Prop :=
  ∀ (r : Request) (rest : List Request) (s : State),
    let u := s.finish
    let i := if r.byte 2 = 0 then u.staging else u.active
    let good := 6 ≤ r.data.length ∧ (r.byte 2).toNat ≤ 1 ∧ (r.byte 3).toNat ≤ 2
    u.takes .readConfig r rest → u.queueLaw →
      ∃ t, exec .readConfig s = .next t ∧ State.onlyAnswers rest u t ∧
        (¬ good → u.replied r .badValue [] t) ∧
        (good → r.byte 3 = 0 → (31 < (r.byte 4).toNat ∨ 2 < (r.byte 5).toNat) → u.replied r .badIndex [] t) ∧
        (good → r.byte 3 = 1 → (63 < (r.byte 4).toNat ∨ r.byte 5 ≠ 0) → u.replied r .badIndex [] t) ∧
        (good → r.byte 3 = 2 → ((r.byte 4).toNat = 0 ∨ 9 < (r.byte 4).toNat ∨ r.byte 5 ≠ 0) →
          u.replied r .badIndex [] t) ∧
        (∀ m : Fin 32, good → r.byte 3 = 0 → (r.byte 4).toNat = m.val →
          let c := i.boxes[m]
          (r.byte 5 = 0 → u.replied r .ok [c.kind.code, (if c.chain then 1 else 0), (if c.attention then 1 else 0),
            BitVec.ofNat 8 (c.identifier.toNat / 256), BitVec.ofNat 8 c.identifier.toNat] t) ∧
          (r.byte 5 = 1 → u.replied r .ok
            [BitVec.ofNat 8 (c.mask.toNat / 256), BitVec.ofNat 8 c.mask.toNat] t) ∧
          (r.byte 5 = 2 → u.replied r .ok [BitVec.ofNat 8 c.length, c.degraded.code, c.changeMask, c.limit] t)) ∧
        (∀ n : Fin 64, good → r.byte 3 = 1 → (r.byte 4).toNat = n.val → r.byte 5 = 0 →
          u.replied r .ok [(i.slots[n]).role.code, BitVec.ofNat 8 (i.slots[n]).mailbox.val] t) ∧
        (good → r.byte 3 = 2 → 1 ≤ (r.byte 4).toNat → (r.byte 4).toNat ≤ 9 → r.byte 5 = 0 →
          u.replied r .ok [BitVec.ofNat 8 (i.profile.value (r.byte 4).toNat / 256),
            BitVec.ofNat 8 (i.profile.value (r.byte 4).toNat)] t)

/-- Part 0 of READ_MAILBOX reads the runtime part and changes no state; the class of a FEED mailbox reads 0 (08, R141; 01,
R16). -/
def Obligations.ReadMailboxStateReads : Prop :=
  ∀ (r : Request) (rest : List Request) (s : State),
    let u := s.finish
    u.takes .readMailboxPart0 r rest → u.queueLaw →
      ∃ t, exec .readMailboxPart0 s = .next t ∧ State.onlyAnswers rest u t ∧
        (r.data.length < 4 → u.replied r .badValue [] t) ∧
        (4 ≤ r.data.length → 31 < (r.byte 2).toNat ∨ 2 < (r.byte 3).toNat → u.replied r .badIndex [] t) ∧
        (∀ m : Fin 32, 4 ≤ r.data.length → (r.byte 2).toNat = m.val → r.byte 3 = 0 →
          ((u.config m).kind = .unused → u.replied r .ok [0, 0, 0, 0, 0] t) ∧
          ((u.config m).kind ≠ .unused → u.replied r .ok
            [(u.box m).state.code, (if (u.config m).kind = .feed then 0 else (u.box m).classSeen.code),
              BitVec.ofNat 8 (u.box m).dataLength, (u.box m).age, (u.box m).generation] t))

/-- Part 1 of READ_MAILBOX captures the mailbox's eight bytes into the read hold; part 2 reads the hold, or is answered
NO_HOLD (08, R141, R142, R143). -/
def Obligations.ReadHoldIsCapturedAndRead : Prop :=
  ∀ (r : Request) (rest : List Request) (s : State),
    let u := s.finish
    u.queueLaw →
      (u.takes .capture r rest → ∃ t, exec .capture s = .next t ∧
        (31 < (r.byte 2).toNat → State.onlyAnswers rest u t ∧ u.replied r .badIndex [] t) ∧
        (∀ m : Fin 32, (r.byte 2).toNat = m.val →
          u.replied r .ok ((u.box m).data.toList.take 5) t ∧
          t = { u with
            tx := t.tx
            engine := { u.engine with
              requests := rest
              hold := { valid := true, mailbox := m, data := (u.box m).data, changed := false } }
            counters := (u.count 107).counters })) ∧
      (u.takes .readMailboxPart2 r rest → ∃ t, exec .readMailboxPart2 s = .next t ∧ State.onlyAnswers rest u t ∧
        (31 < (r.byte 2).toNat → u.replied r .badIndex [] t) ∧
        (∀ m : Fin 32, (r.byte 2).toNat = m.val →
          let h := u.engine.hold
          (h.valid = true ∧ h.mailbox = m → u.replied r .ok
            (h.data.toList.drop 5 ++ [BitVec.ofNat 8 m.val, if h.changed then 1 else 0]) t) ∧
          (¬ (h.valid = true ∧ h.mailbox = m) → u.replied r .noHold [] t)))

/-- READ_COUNTERS reads two counters of the snapshot bank and its sequence byte (08, R144). -/
def Obligations.ReadCountersReadsTheSnapshot : Prop :=
  ∀ (r : Request) (rest : List Request) (s : State),
    let u := s.finish
    let k := (r.byte 2).toNat
    u.takes .readCounters r rest → u.queueLaw →
      ∃ t, exec .readCounters s = .next t ∧ State.onlyAnswers rest u t ∧
        (r.data.length < 3 → u.replied r .badValue [] t) ∧
        (3 ≤ r.data.length → 110 < k → u.replied r .badIndex [] t) ∧
        (3 ≤ r.data.length → ∀ h : k < 110, u.replied r .ok
          [(u.counters.snap[k] >>> 8).setWidth 8, (u.counters.snap[k]).setWidth 8,
            (u.counters.snap[k + 1] >>> 8).setWidth 8, (u.counters.snap[k + 1]).setWidth 8,
            u.counters.sequence.setWidth 8] t) ∧
        (3 ≤ r.data.length → k = 110 → u.replied r .ok
          [(u.counters.snap[110] >>> 8).setWidth 8, (u.counters.snap[110]).setWidth 8, 0, 0,
            u.counters.sequence.setWidth 8] t)

/-- RESTART in ACTIVE is answered and waited for; in SILENT nothing is answered and the restart is due at once (08, R146). -/
def Obligations.RestartWaitsForItsReply : Prop :=
  ∀ (r : Request) (rest : List Request) (s : State),
    let u := s.finish
    u.takes .restart r rest →
      (u.bus.port = .active → u.queueLaw → ∃ t k, exec .restart s = .next t ∧ u.replied r .ok [] t ∧
        (t.reply k).status = .queued ∧ u.freeReply = some k ∧
        t = { u with
          tx := t.tx
          engine := { u.engine with requests := rest, waiting := some k }
          counters := (u.count 107).counters }) ∧
      (u.bus.port = .silent → exec .restart s = .next { State.taken rest u with restartDue := true })

/-- OPEN_EDIT opens a session, confirms it to its owner, and answers OWNED to another (09, R157). CLOSE_EDIT copies the active
image into the staging image and closes the session (09, R158). -/
def Obligations.OpenAndCloseEdit : Prop :=
  (∀ (r : Request) (rest : List Request) (s : State),
    let u := s.finish
    u.takes .openEdit r rest → u.queueLaw →
      ∃ t, exec .openEdit s = .next t ∧
        (r.tag = 0 → u.replied r .badValue [] t ∧ State.onlyAnswers rest u t) ∧
        (r.tag ≠ 0 → u.engine.owner = none ∨ u.engine.owner = some r.tag → u.replied r .ok [] t ∧
          t = { u with
            tx := t.tx
            engine := { u.engine with requests := rest, owner := some r.tag, idle := 0 }
            counters := (u.count 107).counters }) ∧
        (∀ o, r.tag ≠ 0 → u.engine.owner = some o → o ≠ r.tag → u.replied r .owned [o] t ∧ State.onlyAnswers rest u t)) ∧
  (∀ (r : Request) (rest : List Request) (s : State),
    let u := s.finish
    u.takes .closeEdit r rest → u.queueLaw → State.owns r u → 2 ≤ r.data.length →
      ∃ t, exec .closeEdit s = .next t ∧ u.replied r .ok [] t ∧
        t = { u with
          staging := u.active
          tx := t.tx
          engine := { u.engine with requests := rest, owner := none, idle := 0 }
          counters := (u.count 107).counters })

/-- The tests of the edit-class requests but CANCEL, in their order: another's tag is answered NO_SESSION and leaves the idle
count; the owner's sets it to 0, and is answered BUSY while a commit is pending (09, R156, R164). -/
def Obligations.EditRequestsAreTested : Prop :=
  ∀ (r : Request) (rest : List Request) (s : State),
    let u := s.finish
    ∀ p ∈ [(TakeRow.closeEdit, Instr.closeEdit), (.setMatch, .setMatch), (.setTiming, .setTiming), (.setSlot, .setSlot),
        (.setProfile, .setProfile), (.commit, .commit)],
      u.takes p.1 r rest → u.queueLaw →
        (u.engine.owner ≠ some r.tag → ∃ t, exec p.2 s = .next t ∧ u.replied r .noSession [] t ∧
          State.onlyAnswers rest u t) ∧
        (u.engine.owner = some r.tag → u.engine.commit ≠ none → ∃ t, exec p.2 s = .next t ∧ u.replied r .busy [] t ∧
          t = { u with
            tx := t.tx, engine := { u.engine with requests := rest, idle := 0 }, counters := (u.count 107).counters })

/-- SET_MATCH (09, R160). -/
def Obligations.SetMatchWritesFiveFields : Prop :=
  ∀ (r : Request) (rest : List Request) (s : State),
    let u := s.finish
    let flags := (r.byte 3).toNat
    let id := (r.byte 4).toNat * 256 + (r.byte 5).toNat
    let mask := (r.byte 6).toNat * 256 + (r.byte 7).toNat
    let good := flags ≤ 15 ∧ flags % 4 ≠ 3 ∧ id ≤ 0xFFF ∧ mask ≤ 0xFFF
    u.takes .setMatch r rest → u.queueLaw → State.owns r u →
      ∃ t, exec .setMatch s = .next t ∧
        (r.data.length < 8 → State.edited r rest .badValue u.staging u t) ∧
        (8 ≤ r.data.length → 31 < (r.byte 2).toNat → State.edited r rest .badIndex u.staging u t) ∧
        (8 ≤ r.data.length → (r.byte 2).toNat ≤ 31 → ¬ good → State.edited r rest .badValue u.staging u t) ∧
        (∀ m : Fin 32, 8 ≤ r.data.length → (r.byte 2).toNat = m.val → good →
          State.edited r rest .ok { u.staging with boxes := u.staging.boxes.set m { u.staging.boxes[m] with
            kind := if flags % 4 = 0 then .unused else if flags % 4 = 1 then .feed else .report
            chain := decide (flags / 4 % 2 = 1)
            attention := decide (flags / 8 % 2 = 1)
            identifier := BitVec.ofNat 12 id
            mask := BitVec.ofNat 12 mask } } u t)

/-- SET_TIMING (09, R161). -/
def Obligations.SetTimingWritesFourFields : Prop :=
  ∀ (r : Request) (rest : List Request) (s : State),
    let u := s.finish
    let good := (r.byte 3).toNat ≤ 8 ∧ (r.byte 4).toNat ≤ 2
    u.takes .setTiming r rest → u.queueLaw → State.owns r u →
      ∃ t, exec .setTiming s = .next t ∧
        (r.data.length < 7 → State.edited r rest .badValue u.staging u t) ∧
        (7 ≤ r.data.length → 31 < (r.byte 2).toNat → State.edited r rest .badIndex u.staging u t) ∧
        (7 ≤ r.data.length → (r.byte 2).toNat ≤ 31 → ¬ good → State.edited r rest .badValue u.staging u t) ∧
        (∀ m : Fin 32, 7 ≤ r.data.length → (r.byte 2).toNat = m.val → good →
          State.edited r rest .ok { u.staging with boxes := u.staging.boxes.set m { u.staging.boxes[m] with
            length := (r.byte 3).toNat
            degraded := if r.byte 4 = 0 then .forward else if r.byte 4 = 1 then .empty else .suppress
            changeMask := r.byte 5
            limit := r.byte 6 } } u t)

/-- SET_SLOT (09, R162). -/
def Obligations.SetSlotWritesAnEntry : Prop :=
  ∀ (r : Request) (rest : List Request) (s : State),
    let u := s.finish
    u.takes .setSlot r rest → u.queueLaw → State.owns r u →
      ∃ t, exec .setSlot s = .next t ∧
        (r.data.length < 5 → State.edited r rest .badValue u.staging u t) ∧
        (5 ≤ r.data.length → 63 < (r.byte 2).toNat → State.edited r rest .badIndex u.staging u t) ∧
        (5 ≤ r.data.length → (r.byte 2).toNat ≤ 63 → 2 < (r.byte 3).toNat →
          State.edited r rest .badValue u.staging u t) ∧
        (5 ≤ r.data.length → (r.byte 2).toNat ≤ 63 → (r.byte 3).toNat ≤ 2 → 31 < (r.byte 4).toNat →
          State.edited r rest .badIndex u.staging u t) ∧
        (∀ (n : Fin 64) (m : Fin 32), 5 ≤ r.data.length → (r.byte 2).toNat = n.val → (r.byte 3).toNat ≤ 2 →
          (r.byte 4).toNat = m.val →
          State.edited r rest .ok { u.staging with
            slots := u.staging.slots.set n {
              role := if r.byte 3 = 0 then .pass else if r.byte 3 = 1 then .listen else .drive
              mailbox := m } } u t)

/-- SET_PROFILE (09, R163). -/
def Obligations.SetProfileWritesAParameter : Prop :=
  ∀ (r : Request) (rest : List Request) (s : State),
    let u := s.finish
    let v := (r.byte 3).toNat * 256 + (r.byte 4).toNat
    let p := u.staging.profile
    let wrote := fun (ok : Prop) (q : Profile) (t : State) =>
      (ok → State.edited r rest .ok { u.staging with profile := q } u t) ∧
        (¬ ok → State.edited r rest .badValue u.staging u t)
    u.takes .setProfile r rest → u.queueLaw → State.owns r u →
      ∃ t, exec .setProfile s = .next t ∧
        (r.data.length < 5 → State.edited r rest .badValue u.staging u t) ∧
        (5 ≤ r.data.length → (r.byte 2 = 0 ∨ 9 < (r.byte 2).toNat) → State.edited r rest .badIndex u.staging u t) ∧
        (5 ≤ r.data.length → r.byte 2 = 1 → wrote (v ≤ 1) { p with role := if v = 0 then .follower else .master } t) ∧
        (5 ≤ r.data.length → r.byte 2 = 2 → wrote (v = 8 ∨ v = 16 ∨ v = 32 ∨ v = 64)
          { p with slotCount := if v = 8 then .c8 else if v = 16 then .c16 else if v = 32 then .c32 else .c64 } t) ∧
        (5 ≤ r.data.length → r.byte 2 = 3 → wrote (56 ≤ v) { p with roundPeriod := v } t) ∧
        (5 ≤ r.data.length → r.byte 2 = 4 → wrote (v ≤ 1) { p with policy := if v = 0 then .priority else .arrival } t) ∧
        (5 ≤ r.data.length → r.byte 2 = 5 → wrote (1 ≤ v ∧ v ≤ 15) { p with retryLimit := v } t) ∧
        (5 ≤ r.data.length → r.byte 2 = 6 → wrote True { p with snapshotInterval := v } t) ∧
        (5 ≤ r.data.length → r.byte 2 = 7 → wrote (v ≤ 255) { p with noticeRepeat := v } t) ∧
        (5 ≤ r.data.length → r.byte 2 = 8 → wrote (v ≤ 1) { p with selfFeed := decide (v = 1) } t) ∧
        (5 ≤ r.data.length → r.byte 2 = 9 → wrote (16 ≤ v) { p with idleLimit := v } t)

/-- COMMIT from the owner, no commit pending: an image that fails a check is answered INCONSISTENT; one that passes is
accepted, its reply entry staying RESERVED (09, R164, R165, R166; the minimum periods are those of 03, R40). -/
def Obligations.CommitValidates : Prop :=
  ∀ (r : Request) (rest : List Request) (s : State),
    let u := s.finish
    let i := u.staging
    let check1 (n : Fin 64) := (i.slots[n].role = .drive ∧ (i.boxes[i.slots[n].mailbox]).kind ≠ .feed) ∨
      (i.slots[n].role = .listen ∧ (i.boxes[i.slots[n].mailbox]).kind ≠ .report)
    let check2 (n : Fin 64) := i.slots[n].role ≠ .pass ∧
      ∃ k : Fin 64, k < n ∧ i.slots[k].role ≠ .pass ∧ i.slots[k].mailbox = i.slots[n].mailbox
    let check3 (m : Fin 32) := (i.boxes[m]).kind ≠ .unused ∧ 0xEFF < (i.boxes[m]).identifier
    let check4 := i.profile.role = .master ∧ i.profile.roundPeriod < i.profile.slotCount.leastPeriod
    u.takes .commit r rest → State.owns r u →
      ((∀ n, ¬ check1 n) → (∀ n, ¬ check2 n) → (∀ m, ¬ check3 m) → ¬ check4 →
        ∃ t k, exec .commit s = .next t ∧ u.freeReply = some k ∧
          t = { u with
            tx := { u.tx with
              epoch := u.tx.epoch + 1
              placed := 0
              replies := u.tx.replies.set k { u.reply k with status := .reserved } }
            engine := { u.engine with requests := rest, idle := 0, commit := some { tag := r.tag, entry := k } }
            counters := (u.count 107).counters }) ∧
      (∀ check index : Byte, u.queueLaw →
        ((check = 1 ∧ ∃ n, index.toNat = n.val ∧ check1 n ∧ ∀ j, j < n → ¬ check1 j) ∨
          (check = 2 ∧ (∀ n, ¬ check1 n) ∧ ∃ n, index.toNat = n.val ∧ check2 n ∧ ∀ j, j < n → ¬ check2 j) ∨
          (check = 3 ∧ (∀ n, ¬ check1 n) ∧ (∀ n, ¬ check2 n) ∧
            ∃ m, index.toNat = m.val ∧ check3 m ∧ ∀ j, j < m → ¬ check3 j) ∨
          (check = 4 ∧ (∀ n, ¬ check1 n) ∧ (∀ n, ¬ check2 n) ∧ (∀ m, ¬ check3 m) ∧ check4 ∧
            index.toNat = match i.profile.slotCount with
              | .c8 => 8
              | .c16 => 16
              | .c32 => 32
              | .c64 => 64)) →
        ∃ t, exec .commit s = .next t ∧ u.replied r .inconsistent [check, index] t ∧
          t = { u with
            tx := t.tx, engine := { u.engine with requests := rest, idle := 0 }, counters := (u.count 107).counters })

/-- CANCEL (09, R170): a pending commit is withdrawn, its CANCELLED reply placed before CANCEL's own; else NOTHING, TOO_LATE
or NO_SESSION. -/
def Obligations.CancelWithdrawsTheCommit : Prop :=
  ∀ (r : Request) (rest : List Request) (s : State),
    let u := s.finish
    u.takes .cancel r rest → u.queueLaw →
      (∀ c k, u.engine.owner = some r.tag → u.engine.commit = some c → u.freeReply = some k → c.entry ≠ k →
        ∃ t x y, exec .cancel s = .next t ∧
          t.reply c.entry =
            { status := .queued, content := { code := 0x0E, tag := c.tag, result := .cancelled, data := [] } } ∧
          t.reply k = { status := .queued, content := { code := r.code, tag := r.tag, result := .ok, data := [] } } ∧
          t.tx.queued = u.tx.queued ++ [x, y] ∧ x.owner = .reply c.entry ∧ y.owner = .reply k ∧ x.stamp < y.stamp ∧
          t = { u with
            tx := t.tx
            engine := { u.engine with requests := rest, idle := 0, commit := none }
            counters := (u.count 107).counters }) ∧
      (u.engine.owner = some r.tag → u.engine.commit = none → ∃ t, exec .cancel s = .next t ∧
        u.replied r .nothing [] t ∧
        t = { u with
          tx := t.tx, engine := { u.engine with requests := rest, idle := 0 }, counters := (u.count 107).counters }) ∧
      (u.engine.owner = none → u.engine.lastCommit = some r.tag → ∃ t, exec .cancel s = .next t ∧
        u.replied r .tooLate [] t ∧ State.onlyAnswers rest u t) ∧
      ((u.engine.owner = none ∧ u.engine.lastCommit ≠ some r.tag) ∨
          (∃ o, u.engine.owner = some o ∧ o ≠ r.tag) → ∃ t, exec .cancel s = .next t ∧
        u.replied r .noSession [] t ∧ State.onlyAnswers rest u t)

/-- SNAPSHOT, in both addressings, copies and clears the live bank and latches SNAPSHOT_READY; the take itself is counted
before the copy (10, R185, R187). Nothing else changes but the notice an offer brings and the reply (10, R174, R176). -/
def Obligations.SnapshotCopiesTheBank : Prop :=
  ∀ (r : Request) (rest : List Request) (s : State),
    let u := s.finish
    u.takes .snapshot r rest → u.queueLaw →
      ∃ t, exec .snapshot s = .next t ∧
        t = { u with
          tx := t.tx
          engine := { u.engine with requests := rest }
          notices := { u.notices with
            latched := t.notices.latched, repeatCount := t.notices.repeatCount, deferred := t.notices.deferred }
          counters := {
            live := Vector.replicate 111 0
            snap := (u.count 107).counters.live
            sequence := u.counters.sequence + 1
            interval := 0 } } ∧
        (r.broadcast = true → t.tx.replies = u.tx.replies ∧ u.conditionEvent [] .snapshotReady True t) ∧
        (r.broadcast = false → ∃ k : Fin 4, (u.reply k).status = .free ∧
          (∀ j : Fin 4, j < k → (u.reply j).status ≠ .free) ∧
          t.tx.replies = u.tx.replies.set k { status := .queued, content := {
            code := r.code, tag := r.tag, result := .ok
            data := [((u.counters.sequence + 1) >>> 8).setWidth 8, (u.counters.sequence + 1).setWidth 8] } } ∧
          u.conditionEvent [.reply k] .snapshotReady True t)

/-- ACK_NOTICES clears the named conditions and answers with what is left; a missing byte or a second mask byte above 31 is
BAD_VALUE (10, R180). READ_ATTENTION returns the attention set and clears it within the one event; no condition is latched
or cleared (10, R183). -/
def Obligations.AckAndReadAttentionClear : Prop :=
  (∀ (r : Request) (rest : List Request) (s : State),
    let u := s.finish
    let left := u.notices.latched &&& ~~~ ((r.byte 2).setWidth 13 ||| ((r.byte 3).setWidth 13 <<< 8))
    u.takes .ackNotices r rest → u.queueLaw →
      ∃ t, exec .ackNotices s = .next t ∧
        (r.data.length < 4 ∨ 31 < (r.byte 3).toNat → u.replied r .badValue [] t ∧ State.onlyAnswers rest u t) ∧
        (4 ≤ r.data.length → (r.byte 3).toNat ≤ 31 → u.replied r .ok [left.setWidth 8, (left >>> 8).setWidth 8] t ∧
          t = { u with
            tx := t.tx
            engine := { u.engine with requests := rest }
            notices := { u.notices with latched := left }
            counters := (u.count 107).counters })) ∧
  (∀ (r : Request) (rest : List Request) (s : State),
    let u := s.finish
    u.takes .readAttention r rest → u.queueLaw →
      ∃ t, exec .readAttention s = .next t ∧
        u.replied r .ok [u.notices.attention.setWidth 8, (u.notices.attention >>> 8).setWidth 8,
          (u.notices.attention >>> 16).setWidth 8, (u.notices.attention >>> 24).setWidth 8] t ∧
        t = { u with
          tx := t.tx
          engine := { u.engine with requests := rest }
          notices := { u.notices with attention := 0 }
          counters := (u.count 107).counters })

/-- SET_NOTICE_ENABLE replaces the enable set whole and makes one offer exactly if a latched condition becomes enabled; its
reply is OK with no data (10, R176, R181). Fewer than 4 bytes or a byte 3 above 31 is BAD_VALUE (08, R130; 10, R181). -/
def Obligations.SetNoticeEnableReplacesTheSet : Prop :=
  ∀ (r : Request) (rest : List Request) (s : State),
    let u := s.finish
    let new := (r.byte 2).setWidth 13 ||| ((r.byte 3).setWidth 13 <<< 8)
    let offers := new &&& ~~~ u.notices.enabled &&& u.notices.latched ≠ 0
    u.takes .setNoticeEnable r rest →
      ∃ t, exec .setNoticeEnable s = .next t ∧
        (r.data.length < 4 ∨ 31 < (r.byte 3).toNat → u.queueLaw →
          u.replied r .badValue [] t ∧ State.onlyAnswers rest u t) ∧
        (4 ≤ r.data.length → (r.byte 3).toNat ≤ 31 →
          t = { u with
            tx := t.tx
            engine := { u.engine with requests := rest }
            notices := { u.notices with
              enabled := new, repeatCount := t.notices.repeatCount, deferred := t.notices.deferred }
            counters := (u.count 107).counters } ∧
          ∃ k : Fin 4, (u.reply k).status = .free ∧ (∀ j : Fin 4, j < k → (u.reply j).status ≠ .free) ∧
            t.tx.replies = u.tx.replies.set k
              { status := .queued, content := { code := r.code, tag := r.tag, result := .ok, data := [] } } ∧
            (u.queueLaw → u.offered [.reply k] offers t))

/-- The state right after reset satisfies every law. -/
def Obligations.ResetSatisfiesTheLaws : Prop :=
  State.reset.queueLaw ∧ State.reset.singleLaw ∧ State.reset.requestLaw ∧ State.reset.sessionLaw ∧
    State.reset.imageLaw ∧ State.reset.ringLaw ∧ State.reset.busLaw

/-- Every step keeps the stamps below those of events to come, the queued entries in stamp order, and at most one NOTICE and
one DISCOVERY entry, queued or in flight (06, R96, R98, R103). -/
def Obligations.StepKeepsTheQueueLaws : Prop :=
  (∀ s t : State, s.queueLaw → step s = .next t → t.queueLaw) ∧
    ∀ s t : State, s.singleLaw → step s = .next t → t.singleLaw

/-- Every step keeps the request queue at four requests of 2 to 8 bytes at the most, staging equal to active while no session
is open, and a pending commit the open session's own (08, R126; 09, R155). -/
def Obligations.StepKeepsTheEngineLaws : Prop :=
  (∀ s t : State, s.requestLaw → step s = .next t → t.requestLaw) ∧
    ∀ s t : State, s.sessionLaw → step s = .next t → t.sessionLaw

/-- Every step keeps both images in range and the active image lawful (03, R42; 09, R154). -/
def Obligations.StepKeepsTheImagesLawful : Prop :=
  ∀ s t : State, s.imageLaw → step s = .next t → t.imageLaw

/-- Every step keeps the round timer running but at a locked follower or under reset, the miss count at 2 and the emitted
numbers at 4 at the most (04, R56, R57). -/
def Obligations.StepKeepsTheRoundTimerRunning : Prop :=
  ∀ s t : State, s.ringLaw → step s = .next t → t.ringLaw

/-- Every step keeps a frame in flight exactly while the line is SENDING, and none in SILENT (07, R112, R120). -/
def Obligations.StepKeepsTheBusPortLaw : Prop :=
  ∀ s t : State, s.busLaw → step s = .next t → t.busLaw

/-! ### Which row takes a request, and a master's round on the line -/

/-- The row that takes a request (08, R130): a node-addressed one by its code, READ_MAILBOX by its part (08, R141 to R143;
that a missing or refused part goes to part 0 is log 22); a broadcast one by its code, its number of data bytes and, for
ASSIGN, its node number (08, R133, R135; 10, R187). And the codes that replies, slots and images carry: kinds, mailbox
states, classes and degraded actions (01, R16; 03, R38), slot roles (03, R41), slot counts (03, R37), result codes (08,
R131), condition flags (10, R174) and profile values by selector (08, R139; 09, R163). -/
def Obligations.RowsTakeRequestsByCode : Prop :=
  (∀ r : Request, r.broadcast = false →
    (r.row = .probe ↔ r.code = 0x01) ∧ (r.row = .openEdit ↔ r.code = 0x08) ∧ (r.row = .closeEdit ↔ r.code = 0x09) ∧
    (r.row = .setMatch ↔ r.code = 0x0A) ∧ (r.row = .setTiming ↔ r.code = 0x0B) ∧ (r.row = .setSlot ↔ r.code = 0x0C) ∧
    (r.row = .setProfile ↔ r.code = 0x0D) ∧ (r.row = .commit ↔ r.code = 0x0E) ∧ (r.row = .cancel ↔ r.code = 0x0F) ∧
    (r.row = .readConfig ↔ r.code = 0x10) ∧
    (r.row = .capture ↔ r.code = 0x11 ∧ 4 ≤ r.data.length ∧ r.byte 3 = 1) ∧
    (r.row = .readMailboxPart2 ↔ r.code = 0x11 ∧ 4 ≤ r.data.length ∧ r.byte 3 = 2) ∧
    (r.row = .readMailboxPart0 ↔ r.code = 0x11 ∧ ¬ (4 ≤ r.data.length ∧ (r.byte 3 = 1 ∨ r.byte 3 = 2))) ∧
    (r.row = .readCounters ↔ r.code = 0x12) ∧ (r.row = .snapshot ↔ r.code = 0x13) ∧
    (r.row = .readNotices ↔ r.code = 0x14) ∧ (r.row = .ackNotices ↔ r.code = 0x15) ∧
    (r.row = .setNoticeEnable ↔ r.code = 0x16) ∧ (r.row = .readAttention ↔ r.code = 0x17) ∧
    (r.row = .resumeBus ↔ r.code = 0x18) ∧ (r.row = .restart ↔ r.code = 0x1F) ∧
    (r.row = .unknownRequest ↔ r.code.toNat < 0x01 ∨ (0x01 < r.code.toNat ∧ r.code.toNat < 0x08) ∨
      (0x18 < r.code.toNat ∧ r.code ≠ 0x1F))) ∧
  (∀ r : Request, r.broadcast = true →
    (r.row = .discover ↔ r.code = 0x02 ∧ 3 ≤ r.data.length) ∧
    (r.row = .assign ↔ r.code = 0x03 ∧ 8 ≤ r.data.length ∧ r.tag.toNat ≤ 63) ∧
    (r.row = .snapshot ↔ r.code = 0x13) ∧
    (r.row = .broadcastDiscard ↔ ¬ (r.code = 0x02 ∧ 3 ≤ r.data.length) ∧
      ¬ (r.code = 0x03 ∧ 8 ≤ r.data.length ∧ r.tag.toNat ≤ 63) ∧ r.code ≠ 0x13)) ∧
  (∀ k : Kind, k.code = match k with
    | .unused => 0 | .feed => 1 | .report => 2) ∧
  (∀ b : BoxState, b.code = match b with
    | .void => 0 | .fresh => 1 | .held => 2 | .stale => 3 | .quiet => 1 | .pending => 2 | .sending => 3) ∧
  (∀ c : SlotClass, c.code = match c with
    | .none => 0 | .live => 1 | .stale => 2 | .void => 3 | .lost => 4) ∧
  (∀ d : Degraded, d.code = match d with
    | .forward => 0 | .empty => 1 | .suppress => 2) ∧
  (∀ r : SlotRole, r.code = match r with
    | .pass => 0 | .listen => 1 | .drive => 2) ∧
  (∀ c : SlotCount, c.toNat = match c with
    | .c8 => 8 | .c16 => 16 | .c32 => 32 | .c64 => 64) ∧
  (∀ c : ResultCode, c.code = match c with
    | .ok => 0x00 | .busy => 0x01 | .noSession => 0x02 | .owned => 0x03 | .badIndex => 0x04 | .badValue => 0x05
    | .inconsistent => 0x06 | .cancelled => 0x07 | .tooLate => 0x08 | .nothing => 0x09 | .noHold => 0x0A
    | .unknown => 0x0B) ∧
  (∀ c : Condition, c.bit = BitVec.twoPow 13 (match c with
    | .ringLocked => 0 | .ringLost => 1 | .busSilent => 2 | .busResumed => 3 | .txAbandon => 4 | .reqLost => 5
    | .snapshotReady => 6 | .commitDone => 7 | .sessionExpired => 8 | .attention => 9 | .ringForeign => 10
    | .restarted => 11 | .slotCheck => 12) ∧ ∀ v, c.isIn v = true ↔ v &&& c.bit ≠ 0) ∧
  ∀ p : Profile, p.value 1 = (if p.role = .master then 1 else 0) ∧ p.value 2 = p.slotCount.toNat ∧
    p.value 3 = p.roundPeriod ∧ p.value 4 = (if p.policy = .arrival then 1 else 0) ∧ p.value 5 = p.retryLimit ∧
    p.value 6 = p.snapshotInterval ∧ p.value 7 = p.noticeRepeat ∧ p.value 8 = (if p.selfFeed = true then 1 else 0) ∧
    p.value 9 = p.idleLimit

/-- A master's round on the line, as time moves on (03, R40, R45; 02, R26): its mark and its slots go out in ascending number
at the line rate, 0.64 microseconds a byte (log 7). A slot at a DRIVE entry is the one built from its mailbox when it begins,
which is the drive; a slot at a PASS or LISTEN entry is VOID with eight zero bytes. Each event finds the part with time so
moved on. -/
def Obligations.MasterRoundGoesOut : Prop :=
  (∀ (t : Nat) (s : State), s.ring.outRound = none → s.advanceTo t = { s with now := t }) ∧
  (∀ (t : Nat) (o : OutRound) (s : State), s.ring.outRound = some o → o.slots ≤ 64 →
    let due := 25 * o.start + 256 * (4 + 10 * o.next) ≤ 25 * t
    let entry := s.active.slot o.next
    let out := s.rout ++ [match o.sending with
      | none => RingEmission.mark o.mark
      | some b => .slot (o.next - 1) b]
    (¬ due → s.advanceTo t = { s with now := t }) ∧
    (due → ¬ o.next < o.slots →
      s.advanceTo t = { s with now := t, rout := out, ring := { s.ring with outRound := none } }) ∧
    (due → o.next < o.slots → ∃ b : SlotBytes,
      (entry.role = .drive → s.builds entry.mailbox b) ∧
      (entry.role ≠ .drive → b = { head := 0, data := Vector.replicate 8 0, check := 0xA5 }) ∧
      s.advanceTo t = State.advanceTo t { s with
        rout := out
        ring := { s.ring with outRound := some { o with next := o.next + 1, sending := some b } }
        boxes := if entry.role = .drive then s.boxes.set entry.mailbox (s.box entry.mailbox).driven else s.boxes })) ∧
  (∀ (t : Nat) (o : OutRound) (s : State), s.ring.outRound = some o → o.next = 0 → o.sending = none → o.slots ≤ 64 →
    s.active.lawful → 25 * o.start + 256 * (4 + 10 * o.slots) ≤ 25 * t →
      ∃ slot : Nat → SlotBytes, (s.advanceTo t).ring.outRound = none ∧
        (s.advanceTo t).rout = s.rout ++ [.mark o.mark] ++ (List.range o.slots).map (fun n => .slot n (slot n)) ∧
        (∀ n : Fin 64, n.val < o.slots → s.active.slots[n].role = .drive →
          s.builds s.active.slots[n].mailbox (slot n.val) ∧
          (s.advanceTo t).box s.active.slots[n].mailbox = (s.box s.active.slots[n].mailbox).driven) ∧
        (∀ n : Fin 64, n.val < o.slots → s.active.slots[n].role ≠ .drive →
          slot n.val = { head := 0, data := Vector.replicate 8 0, check := 0xA5 }) ∧
        ∀ m : Fin 32, (∀ n : Fin 64, n.val < o.slots → s.active.slots[n] ≠ { role := .drive, mailbox := m }) →
          (s.advanceTo t).box m = s.box m) ∧
  ∀ (t : Nat) (s : State), s.found t = ((s.ripe t).advanceTo t).newEvent

end Statements
end

