-- ==== Sys2Proof/Laws/State.lean ====
section
/-! SUPPORT. The simple operations, field by field: each leaves every field but its own as it was, by rfl. -/

namespace Sys2Proof.Machine

@[simp] theorem setBox_now (m : Fin 32) (b : Runtime) (s : State) : (s.setBox m b).now = s.now := rfl
@[simp] theorem setBox_windowClosed (m : Fin 32) (b : Runtime) (s : State) : (s.setBox m b).windowClosed = s.windowClosed := rfl
@[simp] theorem setBox_held (m : Fin 32) (b : Runtime) (s : State) : (s.setBox m b).held = s.held := rfl
@[simp] theorem setBox_active (m : Fin 32) (b : Runtime) (s : State) : (s.setBox m b).active = s.active := rfl
@[simp] theorem setBox_staging (m : Fin 32) (b : Runtime) (s : State) : (s.setBox m b).staging = s.staging := rfl
@[simp] theorem setBox_ring (m : Fin 32) (b : Runtime) (s : State) : (s.setBox m b).ring = s.ring := rfl
@[simp] theorem setBox_tx (m : Fin 32) (b : Runtime) (s : State) : (s.setBox m b).tx = s.tx := rfl
@[simp] theorem setBox_bus (m : Fin 32) (b : Runtime) (s : State) : (s.setBox m b).bus = s.bus := rfl
@[simp] theorem setBox_engine (m : Fin 32) (b : Runtime) (s : State) : (s.setBox m b).engine = s.engine := rfl
@[simp] theorem setBox_notices (m : Fin 32) (b : Runtime) (s : State) : (s.setBox m b).notices = s.notices := rfl
@[simp] theorem setBox_counters (m : Fin 32) (b : Runtime) (s : State) : (s.setBox m b).counters = s.counters := rfl
@[simp] theorem setBox_boundary (m : Fin 32) (b : Runtime) (s : State) : (s.setBox m b).boundary = s.boundary := rfl
@[simp] theorem setBox_restartDue (m : Fin 32) (b : Runtime) (s : State) : (s.setBox m b).restartDue = s.restartDue := rfl
@[simp] theorem setBox_rout (m : Fin 32) (b : Runtime) (s : State) : (s.setBox m b).rout = s.rout := rfl
@[simp] theorem setBox_btx (m : Fin 32) (b : Runtime) (s : State) : (s.setBox m b).btx = s.btx := rfl
@[simp] theorem setBox_pending (m : Fin 32) (b : Runtime) (s : State) : (s.setBox m b).pending = s.pending := rfl

@[simp] theorem count_now (k : Fin 111) (s : State) : (s.count k).now = s.now := rfl
@[simp] theorem count_windowClosed (k : Fin 111) (s : State) : (s.count k).windowClosed = s.windowClosed := rfl
@[simp] theorem count_held (k : Fin 111) (s : State) : (s.count k).held = s.held := rfl
@[simp] theorem count_boxes (k : Fin 111) (s : State) : (s.count k).boxes = s.boxes := rfl
@[simp] theorem count_active (k : Fin 111) (s : State) : (s.count k).active = s.active := rfl
@[simp] theorem count_staging (k : Fin 111) (s : State) : (s.count k).staging = s.staging := rfl
@[simp] theorem count_ring (k : Fin 111) (s : State) : (s.count k).ring = s.ring := rfl
@[simp] theorem count_tx (k : Fin 111) (s : State) : (s.count k).tx = s.tx := rfl
@[simp] theorem count_bus (k : Fin 111) (s : State) : (s.count k).bus = s.bus := rfl
@[simp] theorem count_engine (k : Fin 111) (s : State) : (s.count k).engine = s.engine := rfl
@[simp] theorem count_notices (k : Fin 111) (s : State) : (s.count k).notices = s.notices := rfl
@[simp] theorem count_boundary (k : Fin 111) (s : State) : (s.count k).boundary = s.boundary := rfl
@[simp] theorem count_restartDue (k : Fin 111) (s : State) : (s.count k).restartDue = s.restartDue := rfl
@[simp] theorem count_rout (k : Fin 111) (s : State) : (s.count k).rout = s.rout := rfl
@[simp] theorem count_btx (k : Fin 111) (s : State) : (s.count k).btx = s.btx := rfl
@[simp] theorem count_pending (k : Fin 111) (s : State) : (s.count k).pending = s.pending := rfl

@[simp] theorem zeroLive_now (k : Fin 111) (s : State) : (s.zeroLive k).now = s.now := rfl
@[simp] theorem zeroLive_windowClosed (k : Fin 111) (s : State) : (s.zeroLive k).windowClosed = s.windowClosed := rfl
@[simp] theorem zeroLive_held (k : Fin 111) (s : State) : (s.zeroLive k).held = s.held := rfl
@[simp] theorem zeroLive_boxes (k : Fin 111) (s : State) : (s.zeroLive k).boxes = s.boxes := rfl
@[simp] theorem zeroLive_active (k : Fin 111) (s : State) : (s.zeroLive k).active = s.active := rfl
@[simp] theorem zeroLive_staging (k : Fin 111) (s : State) : (s.zeroLive k).staging = s.staging := rfl
@[simp] theorem zeroLive_ring (k : Fin 111) (s : State) : (s.zeroLive k).ring = s.ring := rfl
@[simp] theorem zeroLive_tx (k : Fin 111) (s : State) : (s.zeroLive k).tx = s.tx := rfl
@[simp] theorem zeroLive_bus (k : Fin 111) (s : State) : (s.zeroLive k).bus = s.bus := rfl
@[simp] theorem zeroLive_engine (k : Fin 111) (s : State) : (s.zeroLive k).engine = s.engine := rfl
@[simp] theorem zeroLive_notices (k : Fin 111) (s : State) : (s.zeroLive k).notices = s.notices := rfl
@[simp] theorem zeroLive_boundary (k : Fin 111) (s : State) : (s.zeroLive k).boundary = s.boundary := rfl
@[simp] theorem zeroLive_restartDue (k : Fin 111) (s : State) : (s.zeroLive k).restartDue = s.restartDue := rfl
@[simp] theorem zeroLive_rout (k : Fin 111) (s : State) : (s.zeroLive k).rout = s.rout := rfl
@[simp] theorem zeroLive_btx (k : Fin 111) (s : State) : (s.zeroLive k).btx = s.btx := rfl
@[simp] theorem zeroLive_pending (k : Fin 111) (s : State) : (s.zeroLive k).pending = s.pending := rfl

@[simp] theorem newEvent_now (s : State) : (s.newEvent).now = s.now := rfl
@[simp] theorem newEvent_windowClosed (s : State) : (s.newEvent).windowClosed = s.windowClosed := rfl
@[simp] theorem newEvent_held (s : State) : (s.newEvent).held = s.held := rfl
@[simp] theorem newEvent_boxes (s : State) : (s.newEvent).boxes = s.boxes := rfl
@[simp] theorem newEvent_active (s : State) : (s.newEvent).active = s.active := rfl
@[simp] theorem newEvent_staging (s : State) : (s.newEvent).staging = s.staging := rfl
@[simp] theorem newEvent_ring (s : State) : (s.newEvent).ring = s.ring := rfl
@[simp] theorem newEvent_bus (s : State) : (s.newEvent).bus = s.bus := rfl
@[simp] theorem newEvent_engine (s : State) : (s.newEvent).engine = s.engine := rfl
@[simp] theorem newEvent_notices (s : State) : (s.newEvent).notices = s.notices := rfl
@[simp] theorem newEvent_counters (s : State) : (s.newEvent).counters = s.counters := rfl
@[simp] theorem newEvent_boundary (s : State) : (s.newEvent).boundary = s.boundary := rfl
@[simp] theorem newEvent_restartDue (s : State) : (s.newEvent).restartDue = s.restartDue := rfl
@[simp] theorem newEvent_rout (s : State) : (s.newEvent).rout = s.rout := rfl
@[simp] theorem newEvent_btx (s : State) : (s.newEvent).btx = s.btx := rfl
@[simp] theorem newEvent_pending (s : State) : (s.newEvent).pending = s.pending := rfl

@[simp] theorem place_now (o : Owner) (s : State) : (s.place o).now = s.now := rfl
@[simp] theorem place_windowClosed (o : Owner) (s : State) : (s.place o).windowClosed = s.windowClosed := rfl
@[simp] theorem place_held (o : Owner) (s : State) : (s.place o).held = s.held := rfl
@[simp] theorem place_boxes (o : Owner) (s : State) : (s.place o).boxes = s.boxes := rfl
@[simp] theorem place_active (o : Owner) (s : State) : (s.place o).active = s.active := rfl
@[simp] theorem place_staging (o : Owner) (s : State) : (s.place o).staging = s.staging := rfl
@[simp] theorem place_ring (o : Owner) (s : State) : (s.place o).ring = s.ring := rfl
@[simp] theorem place_bus (o : Owner) (s : State) : (s.place o).bus = s.bus := rfl
@[simp] theorem place_engine (o : Owner) (s : State) : (s.place o).engine = s.engine := rfl
@[simp] theorem place_notices (o : Owner) (s : State) : (s.place o).notices = s.notices := rfl
@[simp] theorem place_counters (o : Owner) (s : State) : (s.place o).counters = s.counters := rfl
@[simp] theorem place_boundary (o : Owner) (s : State) : (s.place o).boundary = s.boundary := rfl
@[simp] theorem place_restartDue (o : Owner) (s : State) : (s.place o).restartDue = s.restartDue := rfl
@[simp] theorem place_rout (o : Owner) (s : State) : (s.place o).rout = s.rout := rfl
@[simp] theorem place_btx (o : Owner) (s : State) : (s.place o).btx = s.btx := rfl
@[simp] theorem place_pending (o : Owner) (s : State) : (s.place o).pending = s.pending := rfl

@[simp] theorem requeue_now (e : Entry) (s : State) : (s.requeue e).now = s.now := rfl
@[simp] theorem requeue_windowClosed (e : Entry) (s : State) : (s.requeue e).windowClosed = s.windowClosed := rfl
@[simp] theorem requeue_held (e : Entry) (s : State) : (s.requeue e).held = s.held := rfl
@[simp] theorem requeue_boxes (e : Entry) (s : State) : (s.requeue e).boxes = s.boxes := rfl
@[simp] theorem requeue_active (e : Entry) (s : State) : (s.requeue e).active = s.active := rfl
@[simp] theorem requeue_staging (e : Entry) (s : State) : (s.requeue e).staging = s.staging := rfl
@[simp] theorem requeue_ring (e : Entry) (s : State) : (s.requeue e).ring = s.ring := rfl
@[simp] theorem requeue_bus (e : Entry) (s : State) : (s.requeue e).bus = s.bus := rfl
@[simp] theorem requeue_engine (e : Entry) (s : State) : (s.requeue e).engine = s.engine := rfl
@[simp] theorem requeue_notices (e : Entry) (s : State) : (s.requeue e).notices = s.notices := rfl
@[simp] theorem requeue_counters (e : Entry) (s : State) : (s.requeue e).counters = s.counters := rfl
@[simp] theorem requeue_boundary (e : Entry) (s : State) : (s.requeue e).boundary = s.boundary := rfl
@[simp] theorem requeue_restartDue (e : Entry) (s : State) : (s.requeue e).restartDue = s.restartDue := rfl
@[simp] theorem requeue_rout (e : Entry) (s : State) : (s.requeue e).rout = s.rout := rfl
@[simp] theorem requeue_btx (e : Entry) (s : State) : (s.requeue e).btx = s.btx := rfl
@[simp] theorem requeue_pending (e : Entry) (s : State) : (s.requeue e).pending = s.pending := rfl

@[simp] theorem dropQueued_now (p : Owner → Bool) (s : State) : (s.dropQueued p).now = s.now := rfl
@[simp] theorem dropQueued_windowClosed (p : Owner → Bool) (s : State) : (s.dropQueued p).windowClosed = s.windowClosed := rfl
@[simp] theorem dropQueued_held (p : Owner → Bool) (s : State) : (s.dropQueued p).held = s.held := rfl
@[simp] theorem dropQueued_boxes (p : Owner → Bool) (s : State) : (s.dropQueued p).boxes = s.boxes := rfl
@[simp] theorem dropQueued_active (p : Owner → Bool) (s : State) : (s.dropQueued p).active = s.active := rfl
@[simp] theorem dropQueued_staging (p : Owner → Bool) (s : State) : (s.dropQueued p).staging = s.staging := rfl
@[simp] theorem dropQueued_ring (p : Owner → Bool) (s : State) : (s.dropQueued p).ring = s.ring := rfl
@[simp] theorem dropQueued_bus (p : Owner → Bool) (s : State) : (s.dropQueued p).bus = s.bus := rfl
@[simp] theorem dropQueued_engine (p : Owner → Bool) (s : State) : (s.dropQueued p).engine = s.engine := rfl
@[simp] theorem dropQueued_notices (p : Owner → Bool) (s : State) : (s.dropQueued p).notices = s.notices := rfl
@[simp] theorem dropQueued_counters (p : Owner → Bool) (s : State) : (s.dropQueued p).counters = s.counters := rfl
@[simp] theorem dropQueued_boundary (p : Owner → Bool) (s : State) : (s.dropQueued p).boundary = s.boundary := rfl
@[simp] theorem dropQueued_restartDue (p : Owner → Bool) (s : State) : (s.dropQueued p).restartDue = s.restartDue := rfl
@[simp] theorem dropQueued_rout (p : Owner → Bool) (s : State) : (s.dropQueued p).rout = s.rout := rfl
@[simp] theorem dropQueued_btx (p : Owner → Bool) (s : State) : (s.dropQueued p).btx = s.btx := rfl
@[simp] theorem dropQueued_pending (p : Owner → Bool) (s : State) : (s.dropQueued p).pending = s.pending := rfl

@[simp] theorem placeReport_now (m : Fin 32) (s : State) : (s.placeReport m).now = s.now := rfl
@[simp] theorem placeReport_windowClosed (m : Fin 32) (s : State) : (s.placeReport m).windowClosed = s.windowClosed := rfl
@[simp] theorem placeReport_held (m : Fin 32) (s : State) : (s.placeReport m).held = s.held := rfl
@[simp] theorem placeReport_boxes (m : Fin 32) (s : State) : (s.placeReport m).boxes = s.boxes := rfl
@[simp] theorem placeReport_active (m : Fin 32) (s : State) : (s.placeReport m).active = s.active := rfl
@[simp] theorem placeReport_staging (m : Fin 32) (s : State) : (s.placeReport m).staging = s.staging := rfl
@[simp] theorem placeReport_ring (m : Fin 32) (s : State) : (s.placeReport m).ring = s.ring := rfl
@[simp] theorem placeReport_bus (m : Fin 32) (s : State) : (s.placeReport m).bus = s.bus := rfl
@[simp] theorem placeReport_engine (m : Fin 32) (s : State) : (s.placeReport m).engine = s.engine := rfl
@[simp] theorem placeReport_notices (m : Fin 32) (s : State) : (s.placeReport m).notices = s.notices := rfl
@[simp] theorem placeReport_counters (m : Fin 32) (s : State) : (s.placeReport m).counters = s.counters := rfl
@[simp] theorem placeReport_boundary (m : Fin 32) (s : State) : (s.placeReport m).boundary = s.boundary := rfl
@[simp] theorem placeReport_restartDue (m : Fin 32) (s : State) : (s.placeReport m).restartDue = s.restartDue := rfl
@[simp] theorem placeReport_rout (m : Fin 32) (s : State) : (s.placeReport m).rout = s.rout := rfl
@[simp] theorem placeReport_btx (m : Fin 32) (s : State) : (s.placeReport m).btx = s.btx := rfl
@[simp] theorem placeReport_pending (m : Fin 32) (s : State) : (s.placeReport m).pending = s.pending := rfl

@[simp] theorem setReply_now (k : Fin 4) (r : ReplyEntry) (s : State) : (s.setReply k r).now = s.now := rfl
@[simp] theorem setReply_windowClosed (k : Fin 4) (r : ReplyEntry) (s : State) : (s.setReply k r).windowClosed = s.windowClosed := rfl
@[simp] theorem setReply_held (k : Fin 4) (r : ReplyEntry) (s : State) : (s.setReply k r).held = s.held := rfl
@[simp] theorem setReply_boxes (k : Fin 4) (r : ReplyEntry) (s : State) : (s.setReply k r).boxes = s.boxes := rfl
@[simp] theorem setReply_active (k : Fin 4) (r : ReplyEntry) (s : State) : (s.setReply k r).active = s.active := rfl
@[simp] theorem setReply_staging (k : Fin 4) (r : ReplyEntry) (s : State) : (s.setReply k r).staging = s.staging := rfl
@[simp] theorem setReply_ring (k : Fin 4) (r : ReplyEntry) (s : State) : (s.setReply k r).ring = s.ring := rfl
@[simp] theorem setReply_bus (k : Fin 4) (r : ReplyEntry) (s : State) : (s.setReply k r).bus = s.bus := rfl
@[simp] theorem setReply_engine (k : Fin 4) (r : ReplyEntry) (s : State) : (s.setReply k r).engine = s.engine := rfl
@[simp] theorem setReply_notices (k : Fin 4) (r : ReplyEntry) (s : State) : (s.setReply k r).notices = s.notices := rfl
@[simp] theorem setReply_counters (k : Fin 4) (r : ReplyEntry) (s : State) : (s.setReply k r).counters = s.counters := rfl
@[simp] theorem setReply_boundary (k : Fin 4) (r : ReplyEntry) (s : State) : (s.setReply k r).boundary = s.boundary := rfl
@[simp] theorem setReply_restartDue (k : Fin 4) (r : ReplyEntry) (s : State) : (s.setReply k r).restartDue = s.restartDue := rfl
@[simp] theorem setReply_rout (k : Fin 4) (r : ReplyEntry) (s : State) : (s.setReply k r).rout = s.rout := rfl
@[simp] theorem setReply_btx (k : Fin 4) (r : ReplyEntry) (s : State) : (s.setReply k r).btx = s.btx := rfl
@[simp] theorem setReply_pending (k : Fin 4) (r : ReplyEntry) (s : State) : (s.setReply k r).pending = s.pending := rfl

@[simp] theorem markReply_now (k : Fin 4) (st : ReplyStatus) (s : State) : (s.markReply k st).now = s.now := rfl
@[simp] theorem markReply_windowClosed (k : Fin 4) (st : ReplyStatus) (s : State) : (s.markReply k st).windowClosed = s.windowClosed := rfl
@[simp] theorem markReply_held (k : Fin 4) (st : ReplyStatus) (s : State) : (s.markReply k st).held = s.held := rfl
@[simp] theorem markReply_boxes (k : Fin 4) (st : ReplyStatus) (s : State) : (s.markReply k st).boxes = s.boxes := rfl
@[simp] theorem markReply_active (k : Fin 4) (st : ReplyStatus) (s : State) : (s.markReply k st).active = s.active := rfl
@[simp] theorem markReply_staging (k : Fin 4) (st : ReplyStatus) (s : State) : (s.markReply k st).staging = s.staging := rfl
@[simp] theorem markReply_ring (k : Fin 4) (st : ReplyStatus) (s : State) : (s.markReply k st).ring = s.ring := rfl
@[simp] theorem markReply_bus (k : Fin 4) (st : ReplyStatus) (s : State) : (s.markReply k st).bus = s.bus := rfl
@[simp] theorem markReply_engine (k : Fin 4) (st : ReplyStatus) (s : State) : (s.markReply k st).engine = s.engine := rfl
@[simp] theorem markReply_notices (k : Fin 4) (st : ReplyStatus) (s : State) : (s.markReply k st).notices = s.notices := rfl
@[simp] theorem markReply_counters (k : Fin 4) (st : ReplyStatus) (s : State) : (s.markReply k st).counters = s.counters := rfl
@[simp] theorem markReply_boundary (k : Fin 4) (st : ReplyStatus) (s : State) : (s.markReply k st).boundary = s.boundary := rfl
@[simp] theorem markReply_restartDue (k : Fin 4) (st : ReplyStatus) (s : State) : (s.markReply k st).restartDue = s.restartDue := rfl
@[simp] theorem markReply_rout (k : Fin 4) (st : ReplyStatus) (s : State) : (s.markReply k st).rout = s.rout := rfl
@[simp] theorem markReply_btx (k : Fin 4) (st : ReplyStatus) (s : State) : (s.markReply k st).btx = s.btx := rfl
@[simp] theorem markReply_pending (k : Fin 4) (st : ReplyStatus) (s : State) : (s.markReply k st).pending = s.pending := rfl

@[simp] theorem placeReply_now (k : Fin 4) (c : Reply) (s : State) : (s.placeReply k c).now = s.now := rfl
@[simp] theorem placeReply_windowClosed (k : Fin 4) (c : Reply) (s : State) : (s.placeReply k c).windowClosed = s.windowClosed := rfl
@[simp] theorem placeReply_held (k : Fin 4) (c : Reply) (s : State) : (s.placeReply k c).held = s.held := rfl
@[simp] theorem placeReply_boxes (k : Fin 4) (c : Reply) (s : State) : (s.placeReply k c).boxes = s.boxes := rfl
@[simp] theorem placeReply_active (k : Fin 4) (c : Reply) (s : State) : (s.placeReply k c).active = s.active := rfl
@[simp] theorem placeReply_staging (k : Fin 4) (c : Reply) (s : State) : (s.placeReply k c).staging = s.staging := rfl
@[simp] theorem placeReply_ring (k : Fin 4) (c : Reply) (s : State) : (s.placeReply k c).ring = s.ring := rfl
@[simp] theorem placeReply_bus (k : Fin 4) (c : Reply) (s : State) : (s.placeReply k c).bus = s.bus := rfl
@[simp] theorem placeReply_engine (k : Fin 4) (c : Reply) (s : State) : (s.placeReply k c).engine = s.engine := rfl
@[simp] theorem placeReply_notices (k : Fin 4) (c : Reply) (s : State) : (s.placeReply k c).notices = s.notices := rfl
@[simp] theorem placeReply_counters (k : Fin 4) (c : Reply) (s : State) : (s.placeReply k c).counters = s.counters := rfl
@[simp] theorem placeReply_boundary (k : Fin 4) (c : Reply) (s : State) : (s.placeReply k c).boundary = s.boundary := rfl
@[simp] theorem placeReply_restartDue (k : Fin 4) (c : Reply) (s : State) : (s.placeReply k c).restartDue = s.restartDue := rfl
@[simp] theorem placeReply_rout (k : Fin 4) (c : Reply) (s : State) : (s.placeReply k c).rout = s.rout := rfl
@[simp] theorem placeReply_btx (k : Fin 4) (c : Reply) (s : State) : (s.placeReply k c).btx = s.btx := rfl
@[simp] theorem placeReply_pending (k : Fin 4) (c : Reply) (s : State) : (s.placeReply k c).pending = s.pending := rfl

@[simp] theorem emitRing_now (e : RingEmission) (s : State) : (s.emitRing e).now = s.now := rfl
@[simp] theorem emitRing_windowClosed (e : RingEmission) (s : State) : (s.emitRing e).windowClosed = s.windowClosed := rfl
@[simp] theorem emitRing_held (e : RingEmission) (s : State) : (s.emitRing e).held = s.held := rfl
@[simp] theorem emitRing_boxes (e : RingEmission) (s : State) : (s.emitRing e).boxes = s.boxes := rfl
@[simp] theorem emitRing_active (e : RingEmission) (s : State) : (s.emitRing e).active = s.active := rfl
@[simp] theorem emitRing_staging (e : RingEmission) (s : State) : (s.emitRing e).staging = s.staging := rfl
@[simp] theorem emitRing_ring (e : RingEmission) (s : State) : (s.emitRing e).ring = s.ring := rfl
@[simp] theorem emitRing_tx (e : RingEmission) (s : State) : (s.emitRing e).tx = s.tx := rfl
@[simp] theorem emitRing_bus (e : RingEmission) (s : State) : (s.emitRing e).bus = s.bus := rfl
@[simp] theorem emitRing_engine (e : RingEmission) (s : State) : (s.emitRing e).engine = s.engine := rfl
@[simp] theorem emitRing_notices (e : RingEmission) (s : State) : (s.emitRing e).notices = s.notices := rfl
@[simp] theorem emitRing_counters (e : RingEmission) (s : State) : (s.emitRing e).counters = s.counters := rfl
@[simp] theorem emitRing_boundary (e : RingEmission) (s : State) : (s.emitRing e).boundary = s.boundary := rfl
@[simp] theorem emitRing_restartDue (e : RingEmission) (s : State) : (s.emitRing e).restartDue = s.restartDue := rfl
@[simp] theorem emitRing_btx (e : RingEmission) (s : State) : (s.emitRing e).btx = s.btx := rfl
@[simp] theorem emitRing_pending (e : RingEmission) (s : State) : (s.emitRing e).pending = s.pending := rfl

@[simp] theorem emitBus_now (e : BusEmission) (s : State) : (s.emitBus e).now = s.now := rfl
@[simp] theorem emitBus_windowClosed (e : BusEmission) (s : State) : (s.emitBus e).windowClosed = s.windowClosed := rfl
@[simp] theorem emitBus_held (e : BusEmission) (s : State) : (s.emitBus e).held = s.held := rfl
@[simp] theorem emitBus_boxes (e : BusEmission) (s : State) : (s.emitBus e).boxes = s.boxes := rfl
@[simp] theorem emitBus_active (e : BusEmission) (s : State) : (s.emitBus e).active = s.active := rfl
@[simp] theorem emitBus_staging (e : BusEmission) (s : State) : (s.emitBus e).staging = s.staging := rfl
@[simp] theorem emitBus_ring (e : BusEmission) (s : State) : (s.emitBus e).ring = s.ring := rfl
@[simp] theorem emitBus_tx (e : BusEmission) (s : State) : (s.emitBus e).tx = s.tx := rfl
@[simp] theorem emitBus_bus (e : BusEmission) (s : State) : (s.emitBus e).bus = s.bus := rfl
@[simp] theorem emitBus_engine (e : BusEmission) (s : State) : (s.emitBus e).engine = s.engine := rfl
@[simp] theorem emitBus_notices (e : BusEmission) (s : State) : (s.emitBus e).notices = s.notices := rfl
@[simp] theorem emitBus_counters (e : BusEmission) (s : State) : (s.emitBus e).counters = s.counters := rfl
@[simp] theorem emitBus_boundary (e : BusEmission) (s : State) : (s.emitBus e).boundary = s.boundary := rfl
@[simp] theorem emitBus_restartDue (e : BusEmission) (s : State) : (s.emitBus e).restartDue = s.restartDue := rfl
@[simp] theorem emitBus_rout (e : BusEmission) (s : State) : (s.emitBus e).rout = s.rout := rfl
@[simp] theorem emitBus_pending (e : BusEmission) (s : State) : (s.emitBus e).pending = s.pending := rfl

@[simp] theorem startTimer_now (s : State) : (s.startTimer).now = s.now := rfl
@[simp] theorem startTimer_windowClosed (s : State) : (s.startTimer).windowClosed = s.windowClosed := rfl
@[simp] theorem startTimer_held (s : State) : (s.startTimer).held = s.held := rfl
@[simp] theorem startTimer_boxes (s : State) : (s.startTimer).boxes = s.boxes := rfl
@[simp] theorem startTimer_active (s : State) : (s.startTimer).active = s.active := rfl
@[simp] theorem startTimer_staging (s : State) : (s.startTimer).staging = s.staging := rfl
@[simp] theorem startTimer_tx (s : State) : (s.startTimer).tx = s.tx := rfl
@[simp] theorem startTimer_bus (s : State) : (s.startTimer).bus = s.bus := rfl
@[simp] theorem startTimer_engine (s : State) : (s.startTimer).engine = s.engine := rfl
@[simp] theorem startTimer_notices (s : State) : (s.startTimer).notices = s.notices := rfl
@[simp] theorem startTimer_counters (s : State) : (s.startTimer).counters = s.counters := rfl
@[simp] theorem startTimer_boundary (s : State) : (s.startTimer).boundary = s.boundary := rfl
@[simp] theorem startTimer_restartDue (s : State) : (s.startTimer).restartDue = s.restartDue := rfl
@[simp] theorem startTimer_rout (s : State) : (s.startTimer).rout = s.rout := rfl
@[simp] theorem startTimer_btx (s : State) : (s.startTimer).btx = s.btx := rfl
@[simp] theorem startTimer_pending (s : State) : (s.startTimer).pending = s.pending := rfl

@[simp] theorem clearAttention_now (m : Fin 32) (s : State) : (s.clearAttention m).now = s.now := rfl
@[simp] theorem clearAttention_windowClosed (m : Fin 32) (s : State) : (s.clearAttention m).windowClosed = s.windowClosed := rfl
@[simp] theorem clearAttention_held (m : Fin 32) (s : State) : (s.clearAttention m).held = s.held := rfl
@[simp] theorem clearAttention_boxes (m : Fin 32) (s : State) : (s.clearAttention m).boxes = s.boxes := rfl
@[simp] theorem clearAttention_active (m : Fin 32) (s : State) : (s.clearAttention m).active = s.active := rfl
@[simp] theorem clearAttention_staging (m : Fin 32) (s : State) : (s.clearAttention m).staging = s.staging := rfl
@[simp] theorem clearAttention_ring (m : Fin 32) (s : State) : (s.clearAttention m).ring = s.ring := rfl
@[simp] theorem clearAttention_tx (m : Fin 32) (s : State) : (s.clearAttention m).tx = s.tx := rfl
@[simp] theorem clearAttention_bus (m : Fin 32) (s : State) : (s.clearAttention m).bus = s.bus := rfl
@[simp] theorem clearAttention_engine (m : Fin 32) (s : State) : (s.clearAttention m).engine = s.engine := rfl
@[simp] theorem clearAttention_counters (m : Fin 32) (s : State) : (s.clearAttention m).counters = s.counters := rfl
@[simp] theorem clearAttention_boundary (m : Fin 32) (s : State) : (s.clearAttention m).boundary = s.boundary := rfl
@[simp] theorem clearAttention_restartDue (m : Fin 32) (s : State) : (s.clearAttention m).restartDue = s.restartDue := rfl
@[simp] theorem clearAttention_rout (m : Fin 32) (s : State) : (s.clearAttention m).rout = s.rout := rfl
@[simp] theorem clearAttention_btx (m : Fin 32) (s : State) : (s.clearAttention m).btx = s.btx := rfl
@[simp] theorem clearAttention_pending (m : Fin 32) (s : State) : (s.clearAttention m).pending = s.pending := rfl

@[simp] theorem endAttempt_now (l : LineActivity) (s : State) : (s.endAttempt l).now = s.now := rfl
@[simp] theorem endAttempt_windowClosed (l : LineActivity) (s : State) : (s.endAttempt l).windowClosed = s.windowClosed := rfl
@[simp] theorem endAttempt_held (l : LineActivity) (s : State) : (s.endAttempt l).held = s.held := rfl
@[simp] theorem endAttempt_boxes (l : LineActivity) (s : State) : (s.endAttempt l).boxes = s.boxes := rfl
@[simp] theorem endAttempt_active (l : LineActivity) (s : State) : (s.endAttempt l).active = s.active := rfl
@[simp] theorem endAttempt_staging (l : LineActivity) (s : State) : (s.endAttempt l).staging = s.staging := rfl
@[simp] theorem endAttempt_ring (l : LineActivity) (s : State) : (s.endAttempt l).ring = s.ring := rfl
@[simp] theorem endAttempt_tx (l : LineActivity) (s : State) : (s.endAttempt l).tx = s.tx := rfl
@[simp] theorem endAttempt_engine (l : LineActivity) (s : State) : (s.endAttempt l).engine = s.engine := rfl
@[simp] theorem endAttempt_notices (l : LineActivity) (s : State) : (s.endAttempt l).notices = s.notices := rfl
@[simp] theorem endAttempt_counters (l : LineActivity) (s : State) : (s.endAttempt l).counters = s.counters := rfl
@[simp] theorem endAttempt_boundary (l : LineActivity) (s : State) : (s.endAttempt l).boundary = s.boundary := rfl
@[simp] theorem endAttempt_restartDue (l : LineActivity) (s : State) : (s.endAttempt l).restartDue = s.restartDue := rfl
@[simp] theorem endAttempt_rout (l : LineActivity) (s : State) : (s.endAttempt l).rout = s.rout := rfl
@[simp] theorem endAttempt_btx (l : LineActivity) (s : State) : (s.endAttempt l).btx = s.btx := rfl
@[simp] theorem endAttempt_pending (l : LineActivity) (s : State) : (s.endAttempt l).pending = s.pending := rfl

@[simp] theorem toHunt_now (s : State) : (s.toHunt).now = s.now := rfl
@[simp] theorem toHunt_windowClosed (s : State) : (s.toHunt).windowClosed = s.windowClosed := rfl
@[simp] theorem toHunt_held (s : State) : (s.toHunt).held = s.held := rfl
@[simp] theorem toHunt_boxes (s : State) : (s.toHunt).boxes = s.boxes := rfl
@[simp] theorem toHunt_active (s : State) : (s.toHunt).active = s.active := rfl
@[simp] theorem toHunt_staging (s : State) : (s.toHunt).staging = s.staging := rfl
@[simp] theorem toHunt_tx (s : State) : (s.toHunt).tx = s.tx := rfl
@[simp] theorem toHunt_bus (s : State) : (s.toHunt).bus = s.bus := rfl
@[simp] theorem toHunt_engine (s : State) : (s.toHunt).engine = s.engine := rfl
@[simp] theorem toHunt_notices (s : State) : (s.toHunt).notices = s.notices := rfl
@[simp] theorem toHunt_counters (s : State) : (s.toHunt).counters = s.counters := rfl
@[simp] theorem toHunt_boundary (s : State) : (s.toHunt).boundary = s.boundary := rfl
@[simp] theorem toHunt_restartDue (s : State) : (s.toHunt).restartDue = s.restartDue := rfl
@[simp] theorem toHunt_rout (s : State) : (s.toHunt).rout = s.rout := rfl
@[simp] theorem toHunt_btx (s : State) : (s.toHunt).btx = s.btx := rfl
@[simp] theorem toHunt_pending (s : State) : (s.toHunt).pending = s.pending := rfl

@[simp] theorem takeReference_now (time : Nat) (n : Byte) (s : State) : (s.takeReference time n).now = s.now := rfl
@[simp] theorem takeReference_windowClosed (time : Nat) (n : Byte) (s : State) : (s.takeReference time n).windowClosed = s.windowClosed := rfl
@[simp] theorem takeReference_held (time : Nat) (n : Byte) (s : State) : (s.takeReference time n).held = s.held := rfl
@[simp] theorem takeReference_boxes (time : Nat) (n : Byte) (s : State) : (s.takeReference time n).boxes = s.boxes := rfl
@[simp] theorem takeReference_active (time : Nat) (n : Byte) (s : State) : (s.takeReference time n).active = s.active := rfl
@[simp] theorem takeReference_staging (time : Nat) (n : Byte) (s : State) : (s.takeReference time n).staging = s.staging := rfl
@[simp] theorem takeReference_tx (time : Nat) (n : Byte) (s : State) : (s.takeReference time n).tx = s.tx := rfl
@[simp] theorem takeReference_bus (time : Nat) (n : Byte) (s : State) : (s.takeReference time n).bus = s.bus := rfl
@[simp] theorem takeReference_engine (time : Nat) (n : Byte) (s : State) : (s.takeReference time n).engine = s.engine := rfl
@[simp] theorem takeReference_notices (time : Nat) (n : Byte) (s : State) : (s.takeReference time n).notices = s.notices := rfl
@[simp] theorem takeReference_counters (time : Nat) (n : Byte) (s : State) : (s.takeReference time n).counters = s.counters := rfl
@[simp] theorem takeReference_boundary (time : Nat) (n : Byte) (s : State) : (s.takeReference time n).boundary = s.boundary := rfl
@[simp] theorem takeReference_restartDue (time : Nat) (n : Byte) (s : State) : (s.takeReference time n).restartDue = s.restartDue := rfl
@[simp] theorem takeReference_rout (time : Nat) (n : Byte) (s : State) : (s.takeReference time n).rout = s.rout := rfl
@[simp] theorem takeReference_btx (time : Nat) (n : Byte) (s : State) : (s.takeReference time n).btx = s.btx := rfl
@[simp] theorem takeReference_pending (time : Nat) (n : Byte) (s : State) : (s.takeReference time n).pending = s.pending := rfl

@[simp] theorem openRound_now (r : RoundMark) (use : RoundUse) (s : State) : (s.openRound r use).now = s.now := rfl
@[simp] theorem openRound_windowClosed (r : RoundMark) (use : RoundUse) (s : State) : (s.openRound r use).windowClosed = s.windowClosed := rfl
@[simp] theorem openRound_held (r : RoundMark) (use : RoundUse) (s : State) : (s.openRound r use).held = s.held := rfl
@[simp] theorem openRound_boxes (r : RoundMark) (use : RoundUse) (s : State) : (s.openRound r use).boxes = s.boxes := rfl
@[simp] theorem openRound_active (r : RoundMark) (use : RoundUse) (s : State) : (s.openRound r use).active = s.active := rfl
@[simp] theorem openRound_staging (r : RoundMark) (use : RoundUse) (s : State) : (s.openRound r use).staging = s.staging := rfl
@[simp] theorem openRound_tx (r : RoundMark) (use : RoundUse) (s : State) : (s.openRound r use).tx = s.tx := rfl
@[simp] theorem openRound_bus (r : RoundMark) (use : RoundUse) (s : State) : (s.openRound r use).bus = s.bus := rfl
@[simp] theorem openRound_engine (r : RoundMark) (use : RoundUse) (s : State) : (s.openRound r use).engine = s.engine := rfl
@[simp] theorem openRound_notices (r : RoundMark) (use : RoundUse) (s : State) : (s.openRound r use).notices = s.notices := rfl
@[simp] theorem openRound_counters (r : RoundMark) (use : RoundUse) (s : State) : (s.openRound r use).counters = s.counters := rfl
@[simp] theorem openRound_boundary (r : RoundMark) (use : RoundUse) (s : State) : (s.openRound r use).boundary = s.boundary := rfl
@[simp] theorem openRound_restartDue (r : RoundMark) (use : RoundUse) (s : State) : (s.openRound r use).restartDue = s.restartDue := rfl
@[simp] theorem openRound_rout (r : RoundMark) (use : RoundUse) (s : State) : (s.openRound r use).rout = s.rout := rfl
@[simp] theorem openRound_btx (r : RoundMark) (use : RoundUse) (s : State) : (s.openRound r use).btx = s.btx := rfl
@[simp] theorem openRound_pending (r : RoundMark) (use : RoundUse) (s : State) : (s.openRound r use).pending = s.pending := rfl

@[simp] theorem closeSession_now (s : State) : (s.closeSession).now = s.now := rfl
@[simp] theorem closeSession_windowClosed (s : State) : (s.closeSession).windowClosed = s.windowClosed := rfl
@[simp] theorem closeSession_held (s : State) : (s.closeSession).held = s.held := rfl
@[simp] theorem closeSession_boxes (s : State) : (s.closeSession).boxes = s.boxes := rfl
@[simp] theorem closeSession_active (s : State) : (s.closeSession).active = s.active := rfl
@[simp] theorem closeSession_staging (s : State) : (s.closeSession).staging = s.staging := rfl
@[simp] theorem closeSession_ring (s : State) : (s.closeSession).ring = s.ring := rfl
@[simp] theorem closeSession_tx (s : State) : (s.closeSession).tx = s.tx := rfl
@[simp] theorem closeSession_bus (s : State) : (s.closeSession).bus = s.bus := rfl
@[simp] theorem closeSession_notices (s : State) : (s.closeSession).notices = s.notices := rfl
@[simp] theorem closeSession_counters (s : State) : (s.closeSession).counters = s.counters := rfl
@[simp] theorem closeSession_boundary (s : State) : (s.closeSession).boundary = s.boundary := rfl
@[simp] theorem closeSession_restartDue (s : State) : (s.closeSession).restartDue = s.restartDue := rfl
@[simp] theorem closeSession_rout (s : State) : (s.closeSession).rout = s.rout := rfl
@[simp] theorem closeSession_btx (s : State) : (s.closeSession).btx = s.btx := rfl
@[simp] theorem closeSession_pending (s : State) : (s.closeSession).pending = s.pending := rfl

@[simp] theorem dequeue_now (rest : List Request) (s : State) : (s.dequeue rest).now = s.now := rfl
@[simp] theorem dequeue_windowClosed (rest : List Request) (s : State) : (s.dequeue rest).windowClosed = s.windowClosed := rfl
@[simp] theorem dequeue_held (rest : List Request) (s : State) : (s.dequeue rest).held = s.held := rfl
@[simp] theorem dequeue_boxes (rest : List Request) (s : State) : (s.dequeue rest).boxes = s.boxes := rfl
@[simp] theorem dequeue_active (rest : List Request) (s : State) : (s.dequeue rest).active = s.active := rfl
@[simp] theorem dequeue_staging (rest : List Request) (s : State) : (s.dequeue rest).staging = s.staging := rfl
@[simp] theorem dequeue_ring (rest : List Request) (s : State) : (s.dequeue rest).ring = s.ring := rfl
@[simp] theorem dequeue_bus (rest : List Request) (s : State) : (s.dequeue rest).bus = s.bus := rfl
@[simp] theorem dequeue_notices (rest : List Request) (s : State) : (s.dequeue rest).notices = s.notices := rfl
@[simp] theorem dequeue_boundary (rest : List Request) (s : State) : (s.dequeue rest).boundary = s.boundary := rfl
@[simp] theorem dequeue_restartDue (rest : List Request) (s : State) : (s.dequeue rest).restartDue = s.restartDue := rfl
@[simp] theorem dequeue_rout (rest : List Request) (s : State) : (s.dequeue rest).rout = s.rout := rfl
@[simp] theorem dequeue_btx (rest : List Request) (s : State) : (s.dequeue rest).btx = s.btx := rfl
@[simp] theorem dequeue_pending (rest : List Request) (s : State) : (s.dequeue rest).pending = s.pending := rfl

@[simp] theorem stageBox_now (m : Fin 32) (c : MailboxConfig) (s : State) : (s.stageBox m c).now = s.now := rfl
@[simp] theorem stageBox_windowClosed (m : Fin 32) (c : MailboxConfig) (s : State) : (s.stageBox m c).windowClosed = s.windowClosed := rfl
@[simp] theorem stageBox_held (m : Fin 32) (c : MailboxConfig) (s : State) : (s.stageBox m c).held = s.held := rfl
@[simp] theorem stageBox_boxes (m : Fin 32) (c : MailboxConfig) (s : State) : (s.stageBox m c).boxes = s.boxes := rfl
@[simp] theorem stageBox_active (m : Fin 32) (c : MailboxConfig) (s : State) : (s.stageBox m c).active = s.active := rfl
@[simp] theorem stageBox_ring (m : Fin 32) (c : MailboxConfig) (s : State) : (s.stageBox m c).ring = s.ring := rfl
@[simp] theorem stageBox_tx (m : Fin 32) (c : MailboxConfig) (s : State) : (s.stageBox m c).tx = s.tx := rfl
@[simp] theorem stageBox_bus (m : Fin 32) (c : MailboxConfig) (s : State) : (s.stageBox m c).bus = s.bus := rfl
@[simp] theorem stageBox_engine (m : Fin 32) (c : MailboxConfig) (s : State) : (s.stageBox m c).engine = s.engine := rfl
@[simp] theorem stageBox_notices (m : Fin 32) (c : MailboxConfig) (s : State) : (s.stageBox m c).notices = s.notices := rfl
@[simp] theorem stageBox_counters (m : Fin 32) (c : MailboxConfig) (s : State) : (s.stageBox m c).counters = s.counters := rfl
@[simp] theorem stageBox_boundary (m : Fin 32) (c : MailboxConfig) (s : State) : (s.stageBox m c).boundary = s.boundary := rfl
@[simp] theorem stageBox_restartDue (m : Fin 32) (c : MailboxConfig) (s : State) : (s.stageBox m c).restartDue = s.restartDue := rfl
@[simp] theorem stageBox_rout (m : Fin 32) (c : MailboxConfig) (s : State) : (s.stageBox m c).rout = s.rout := rfl
@[simp] theorem stageBox_btx (m : Fin 32) (c : MailboxConfig) (s : State) : (s.stageBox m c).btx = s.btx := rfl
@[simp] theorem stageBox_pending (m : Fin 32) (c : MailboxConfig) (s : State) : (s.stageBox m c).pending = s.pending := rfl

@[simp] theorem stageSlot_now (n : Fin 64) (e : SlotEntry) (s : State) : (s.stageSlot n e).now = s.now := rfl
@[simp] theorem stageSlot_windowClosed (n : Fin 64) (e : SlotEntry) (s : State) : (s.stageSlot n e).windowClosed = s.windowClosed := rfl
@[simp] theorem stageSlot_held (n : Fin 64) (e : SlotEntry) (s : State) : (s.stageSlot n e).held = s.held := rfl
@[simp] theorem stageSlot_boxes (n : Fin 64) (e : SlotEntry) (s : State) : (s.stageSlot n e).boxes = s.boxes := rfl
@[simp] theorem stageSlot_active (n : Fin 64) (e : SlotEntry) (s : State) : (s.stageSlot n e).active = s.active := rfl
@[simp] theorem stageSlot_ring (n : Fin 64) (e : SlotEntry) (s : State) : (s.stageSlot n e).ring = s.ring := rfl
@[simp] theorem stageSlot_tx (n : Fin 64) (e : SlotEntry) (s : State) : (s.stageSlot n e).tx = s.tx := rfl
@[simp] theorem stageSlot_bus (n : Fin 64) (e : SlotEntry) (s : State) : (s.stageSlot n e).bus = s.bus := rfl
@[simp] theorem stageSlot_engine (n : Fin 64) (e : SlotEntry) (s : State) : (s.stageSlot n e).engine = s.engine := rfl
@[simp] theorem stageSlot_notices (n : Fin 64) (e : SlotEntry) (s : State) : (s.stageSlot n e).notices = s.notices := rfl
@[simp] theorem stageSlot_counters (n : Fin 64) (e : SlotEntry) (s : State) : (s.stageSlot n e).counters = s.counters := rfl
@[simp] theorem stageSlot_boundary (n : Fin 64) (e : SlotEntry) (s : State) : (s.stageSlot n e).boundary = s.boundary := rfl
@[simp] theorem stageSlot_restartDue (n : Fin 64) (e : SlotEntry) (s : State) : (s.stageSlot n e).restartDue = s.restartDue := rfl
@[simp] theorem stageSlot_rout (n : Fin 64) (e : SlotEntry) (s : State) : (s.stageSlot n e).rout = s.rout := rfl
@[simp] theorem stageSlot_btx (n : Fin 64) (e : SlotEntry) (s : State) : (s.stageSlot n e).btx = s.btx := rfl
@[simp] theorem stageSlot_pending (n : Fin 64) (e : SlotEntry) (s : State) : (s.stageSlot n e).pending = s.pending := rfl

@[simp] theorem clearIdle_now (s : State) : (s.clearIdle).now = s.now := rfl
@[simp] theorem clearIdle_windowClosed (s : State) : (s.clearIdle).windowClosed = s.windowClosed := rfl
@[simp] theorem clearIdle_held (s : State) : (s.clearIdle).held = s.held := rfl
@[simp] theorem clearIdle_boxes (s : State) : (s.clearIdle).boxes = s.boxes := rfl
@[simp] theorem clearIdle_active (s : State) : (s.clearIdle).active = s.active := rfl
@[simp] theorem clearIdle_staging (s : State) : (s.clearIdle).staging = s.staging := rfl
@[simp] theorem clearIdle_ring (s : State) : (s.clearIdle).ring = s.ring := rfl
@[simp] theorem clearIdle_tx (s : State) : (s.clearIdle).tx = s.tx := rfl
@[simp] theorem clearIdle_bus (s : State) : (s.clearIdle).bus = s.bus := rfl
@[simp] theorem clearIdle_notices (s : State) : (s.clearIdle).notices = s.notices := rfl
@[simp] theorem clearIdle_counters (s : State) : (s.clearIdle).counters = s.counters := rfl
@[simp] theorem clearIdle_boundary (s : State) : (s.clearIdle).boundary = s.boundary := rfl
@[simp] theorem clearIdle_restartDue (s : State) : (s.clearIdle).restartDue = s.restartDue := rfl
@[simp] theorem clearIdle_rout (s : State) : (s.clearIdle).rout = s.rout := rfl
@[simp] theorem clearIdle_btx (s : State) : (s.clearIdle).btx = s.btx := rfl
@[simp] theorem clearIdle_pending (s : State) : (s.clearIdle).pending = s.pending := rfl

@[simp] theorem popped_now (rest : List Instr) (s : State) : (s.popped rest).now = s.now := rfl
@[simp] theorem popped_windowClosed (rest : List Instr) (s : State) : (s.popped rest).windowClosed = s.windowClosed := rfl
@[simp] theorem popped_held (rest : List Instr) (s : State) : (s.popped rest).held = s.held := rfl
@[simp] theorem popped_boxes (rest : List Instr) (s : State) : (s.popped rest).boxes = s.boxes := rfl
@[simp] theorem popped_active (rest : List Instr) (s : State) : (s.popped rest).active = s.active := rfl
@[simp] theorem popped_staging (rest : List Instr) (s : State) : (s.popped rest).staging = s.staging := rfl
@[simp] theorem popped_ring (rest : List Instr) (s : State) : (s.popped rest).ring = s.ring := rfl
@[simp] theorem popped_tx (rest : List Instr) (s : State) : (s.popped rest).tx = s.tx := rfl
@[simp] theorem popped_bus (rest : List Instr) (s : State) : (s.popped rest).bus = s.bus := rfl
@[simp] theorem popped_engine (rest : List Instr) (s : State) : (s.popped rest).engine = s.engine := rfl
@[simp] theorem popped_notices (rest : List Instr) (s : State) : (s.popped rest).notices = s.notices := rfl
@[simp] theorem popped_counters (rest : List Instr) (s : State) : (s.popped rest).counters = s.counters := rfl
@[simp] theorem popped_boundary (rest : List Instr) (s : State) : (s.popped rest).boundary = s.boundary := rfl
@[simp] theorem popped_restartDue (rest : List Instr) (s : State) : (s.popped rest).restartDue = s.restartDue := rfl
@[simp] theorem popped_rout (rest : List Instr) (s : State) : (s.popped rest).rout = s.rout := rfl
@[simp] theorem popped_btx (rest : List Instr) (s : State) : (s.popped rest).btx = s.btx := rfl

end Sys2Proof.Machine
end

