-- ==== Sys2Proof/Laws/Frames.lean ====
section
/-! SUPPORT. The frame of each named operation: the fields it leaves as they were, each a rewriting rule. -/

namespace Sys2Proof.Machine


/-- A field that one step of a fold leaves as it was is left so by the fold. -/
theorem foldl_keeps {α β : Type} {g : State → α → State} {f : State → β} (h : ∀ s x, f (g s x) = f s) (l : List α)
    (s : State) : f (l.foldl g s) = f s := by
  induction l generalizing s with
  | nil => rfl
  | cons x l ih => exact (ih (g s x)).trans (h s x)

@[simp] theorem replyLeaves_frame (k : Fin 4) (s : State) :
    (s.replyLeaves k).now = s.now ∧ (s.replyLeaves k).windowClosed = s.windowClosed ∧
    (s.replyLeaves k).held = s.held ∧ (s.replyLeaves k).boxes = s.boxes ∧ (s.replyLeaves k).active = s.active ∧
    (s.replyLeaves k).staging = s.staging ∧ (s.replyLeaves k).ring = s.ring ∧ (s.replyLeaves k).bus = s.bus ∧
    (s.replyLeaves k).engine = s.engine ∧ (s.replyLeaves k).notices = s.notices ∧
    (s.replyLeaves k).counters = s.counters ∧ (s.replyLeaves k).boundary = s.boundary ∧
    (s.replyLeaves k).rout = s.rout ∧ (s.replyLeaves k).btx = s.btx ∧ (s.replyLeaves k).pending = s.pending := by
  unfold State.replyLeaves
  try dsimp only
  (repeat' split) <;> simp

@[simp] theorem touchHold_frame (m : Fin 32) (a : Bool) (s : State) :
    (s.touchHold m a).now = s.now ∧ (s.touchHold m a).windowClosed = s.windowClosed ∧
    (s.touchHold m a).held = s.held ∧ (s.touchHold m a).boxes = s.boxes ∧ (s.touchHold m a).active = s.active ∧
    (s.touchHold m a).staging = s.staging ∧ (s.touchHold m a).ring = s.ring ∧ (s.touchHold m a).tx = s.tx ∧
    (s.touchHold m a).bus = s.bus ∧ (s.touchHold m a).notices = s.notices ∧
    (s.touchHold m a).counters = s.counters ∧ (s.touchHold m a).boundary = s.boundary ∧
    (s.touchHold m a).restartDue = s.restartDue ∧ (s.touchHold m a).rout = s.rout ∧
    (s.touchHold m a).btx = s.btx ∧ (s.touchHold m a).pending = s.pending := by
  unfold State.touchHold
  try dsimp only
  (repeat' split) <;> simp

@[simp] theorem offer_frame (s : State) :
    (s.offer).now = s.now ∧ (s.offer).windowClosed = s.windowClosed ∧ (s.offer).held = s.held ∧
    (s.offer).boxes = s.boxes ∧ (s.offer).active = s.active ∧ (s.offer).staging = s.staging ∧
    (s.offer).ring = s.ring ∧ (s.offer).bus = s.bus ∧ (s.offer).engine = s.engine ∧
    (s.offer).counters = s.counters ∧ (s.offer).boundary = s.boundary ∧ (s.offer).restartDue = s.restartDue ∧
    (s.offer).rout = s.rout ∧ (s.offer).btx = s.btx ∧ (s.offer).pending = s.pending := by
  unfold State.offer
  try dsimp only
  (repeat' split) <;> simp

@[simp] theorem latch_frame (c : Condition) (s : State) :
    (s.latch c).now = s.now ∧ (s.latch c).windowClosed = s.windowClosed ∧ (s.latch c).held = s.held ∧
    (s.latch c).boxes = s.boxes ∧ (s.latch c).active = s.active ∧ (s.latch c).staging = s.staging ∧
    (s.latch c).ring = s.ring ∧ (s.latch c).bus = s.bus ∧ (s.latch c).engine = s.engine ∧
    (s.latch c).counters = s.counters ∧ (s.latch c).boundary = s.boundary ∧
    (s.latch c).restartDue = s.restartDue ∧ (s.latch c).rout = s.rout ∧ (s.latch c).btx = s.btx ∧
    (s.latch c).pending = s.pending := by
  unfold State.latch
  try dsimp only
  (repeat' split) <;> simp

@[simp] theorem markAttention_frame (m : Fin 32) (s : State) :
    (s.markAttention m).now = s.now ∧ (s.markAttention m).windowClosed = s.windowClosed ∧
    (s.markAttention m).held = s.held ∧ (s.markAttention m).boxes = s.boxes ∧
    (s.markAttention m).active = s.active ∧ (s.markAttention m).staging = s.staging ∧
    (s.markAttention m).ring = s.ring ∧ (s.markAttention m).bus = s.bus ∧
    (s.markAttention m).engine = s.engine ∧ (s.markAttention m).counters = s.counters ∧
    (s.markAttention m).boundary = s.boundary ∧ (s.markAttention m).restartDue = s.restartDue ∧
    (s.markAttention m).rout = s.rout ∧ (s.markAttention m).btx = s.btx ∧
    (s.markAttention m).pending = s.pending := by
  unfold State.markAttention
  try dsimp only
  (repeat' split) <;> simp

@[simp] theorem noticeLeaves_frame (s : State) :
    (s.noticeLeaves).now = s.now ∧ (s.noticeLeaves).windowClosed = s.windowClosed ∧
    (s.noticeLeaves).held = s.held ∧ (s.noticeLeaves).boxes = s.boxes ∧ (s.noticeLeaves).active = s.active ∧
    (s.noticeLeaves).staging = s.staging ∧ (s.noticeLeaves).ring = s.ring ∧ (s.noticeLeaves).bus = s.bus ∧
    (s.noticeLeaves).engine = s.engine ∧ (s.noticeLeaves).counters = s.counters ∧
    (s.noticeLeaves).boundary = s.boundary ∧ (s.noticeLeaves).restartDue = s.restartDue ∧
    (s.noticeLeaves).rout = s.rout ∧ (s.noticeLeaves).btx = s.btx ∧ (s.noticeLeaves).pending = s.pending := by
  unfold State.noticeLeaves
  try dsimp only
  (repeat' split) <;> simp

@[simp] theorem takeSnapshot_frame (s : State) :
    (s.takeSnapshot).now = s.now ∧ (s.takeSnapshot).windowClosed = s.windowClosed ∧
    (s.takeSnapshot).held = s.held ∧ (s.takeSnapshot).boxes = s.boxes ∧ (s.takeSnapshot).active = s.active ∧
    (s.takeSnapshot).staging = s.staging ∧ (s.takeSnapshot).ring = s.ring ∧ (s.takeSnapshot).bus = s.bus ∧
    (s.takeSnapshot).engine = s.engine ∧ (s.takeSnapshot).boundary = s.boundary ∧
    (s.takeSnapshot).restartDue = s.restartDue ∧ (s.takeSnapshot).rout = s.rout ∧ (s.takeSnapshot).btx = s.btx ∧
    (s.takeSnapshot).pending = s.pending := by
  unfold State.takeSnapshot
  simp

@[simp] theorem store_frame (f : Frame) (m : Fin 32) (s : State) :
    (s.store f m).now = s.now ∧ (s.store f m).windowClosed = s.windowClosed ∧ (s.store f m).held = s.held ∧
    (s.store f m).active = s.active ∧ (s.store f m).staging = s.staging ∧ (s.store f m).ring = s.ring ∧
    (s.store f m).bus = s.bus ∧ (s.store f m).boundary = s.boundary ∧ (s.store f m).restartDue = s.restartDue ∧
    (s.store f m).rout = s.rout ∧ (s.store f m).btx = s.btx ∧ (s.store f m).pending = s.pending := by
  unfold State.store
  try dsimp only
  (repeat' split) <;> simp

@[simp] theorem walk_frame (f : Frame) (l : List (Fin 32)) (s : State) :
    (s.walk f l).now = s.now ∧ (s.walk f l).windowClosed = s.windowClosed ∧ (s.walk f l).held = s.held ∧
    (s.walk f l).active = s.active ∧ (s.walk f l).staging = s.staging ∧ (s.walk f l).ring = s.ring ∧
    (s.walk f l).bus = s.bus ∧ (s.walk f l).boundary = s.boundary ∧ (s.walk f l).restartDue = s.restartDue ∧
    (s.walk f l).rout = s.rout ∧ (s.walk f l).btx = s.btx ∧ (s.walk f l).pending = s.pending := by
  induction l generalizing s with
  | nil => simp [State.walk]
  | cons m ms ih =>
    unfold State.walk
    (repeat' split) <;> simp [ih]

@[simp] theorem offerToMatch_frame (f : Frame) (s : State) :
    (s.offerToMatch f).now = s.now ∧ (s.offerToMatch f).windowClosed = s.windowClosed ∧
    (s.offerToMatch f).held = s.held ∧ (s.offerToMatch f).active = s.active ∧
    (s.offerToMatch f).staging = s.staging ∧ (s.offerToMatch f).ring = s.ring ∧ (s.offerToMatch f).bus = s.bus ∧
    (s.offerToMatch f).boundary = s.boundary ∧ (s.offerToMatch f).restartDue = s.restartDue ∧
    (s.offerToMatch f).rout = s.rout ∧ (s.offerToMatch f).btx = s.btx ∧ (s.offerToMatch f).pending = s.pending := by
  unfold State.offerToMatch
  simp

@[simp] theorem drive_frame (m : Fin 32) (s : State) :
    (s.drive m).now = s.now ∧ (s.drive m).windowClosed = s.windowClosed ∧ (s.drive m).held = s.held ∧
    (s.drive m).active = s.active ∧ (s.drive m).staging = s.staging ∧ (s.drive m).ring = s.ring ∧
    (s.drive m).tx = s.tx ∧ (s.drive m).bus = s.bus ∧ (s.drive m).engine = s.engine ∧
    (s.drive m).notices = s.notices ∧ (s.drive m).counters = s.counters ∧ (s.drive m).boundary = s.boundary ∧
    (s.drive m).restartDue = s.restartDue ∧ (s.drive m).rout = s.rout ∧ (s.drive m).btx = s.btx ∧
    (s.drive m).pending = s.pending := by
  unfold State.drive
  try dsimp only
  (repeat' split) <;> simp

@[simp] theorem ageFeed_frame (m : Fin 32) (s : State) :
    (s.ageFeed m).now = s.now ∧ (s.ageFeed m).windowClosed = s.windowClosed ∧ (s.ageFeed m).held = s.held ∧
    (s.ageFeed m).active = s.active ∧ (s.ageFeed m).staging = s.staging ∧ (s.ageFeed m).ring = s.ring ∧
    (s.ageFeed m).bus = s.bus ∧ (s.ageFeed m).engine = s.engine ∧ (s.ageFeed m).boundary = s.boundary ∧
    (s.ageFeed m).restartDue = s.restartDue ∧ (s.ageFeed m).rout = s.rout ∧ (s.ageFeed m).btx = s.btx ∧
    (s.ageFeed m).pending = s.pending := by
  unfold State.ageFeed
  try dsimp only
  (repeat' split) <;> simp

@[simp] theorem trigger_frame (m : Fin 32) (s : State) :
    (s.trigger m).now = s.now ∧ (s.trigger m).windowClosed = s.windowClosed ∧ (s.trigger m).held = s.held ∧
    (s.trigger m).active = s.active ∧ (s.trigger m).staging = s.staging ∧ (s.trigger m).ring = s.ring ∧
    (s.trigger m).bus = s.bus ∧ (s.trigger m).engine = s.engine ∧ (s.trigger m).notices = s.notices ∧
    (s.trigger m).boundary = s.boundary ∧ (s.trigger m).restartDue = s.restartDue ∧
    (s.trigger m).rout = s.rout ∧ (s.trigger m).btx = s.btx ∧ (s.trigger m).pending = s.pending := by
  unfold State.trigger
  try dsimp only
  (repeat' split) <;> simp

@[simp] theorem degradedAttention_frame (m : Fin 32) (p : SlotClass) (s : State) :
    (s.degradedAttention m p).now = s.now ∧ (s.degradedAttention m p).windowClosed = s.windowClosed ∧
    (s.degradedAttention m p).held = s.held ∧ (s.degradedAttention m p).boxes = s.boxes ∧
    (s.degradedAttention m p).active = s.active ∧ (s.degradedAttention m p).staging = s.staging ∧
    (s.degradedAttention m p).ring = s.ring ∧ (s.degradedAttention m p).bus = s.bus ∧
    (s.degradedAttention m p).engine = s.engine ∧ (s.degradedAttention m p).counters = s.counters ∧
    (s.degradedAttention m p).boundary = s.boundary ∧ (s.degradedAttention m p).restartDue = s.restartDue ∧
    (s.degradedAttention m p).rout = s.rout ∧ (s.degradedAttention m p).btx = s.btx ∧
    (s.degradedAttention m p).pending = s.pending := by
  unfold State.degradedAttention
  try dsimp only
  (repeat' split) <;> simp

@[simp] theorem testChange_frame (m : Fin 32) (p : SlotClass) (s : State) :
    (s.testChange m p).now = s.now ∧ (s.testChange m p).windowClosed = s.windowClosed ∧
    (s.testChange m p).held = s.held ∧ (s.testChange m p).active = s.active ∧
    (s.testChange m p).staging = s.staging ∧ (s.testChange m p).ring = s.ring ∧ (s.testChange m p).bus = s.bus ∧
    (s.testChange m p).engine = s.engine ∧ (s.testChange m p).boundary = s.boundary ∧
    (s.testChange m p).restartDue = s.restartDue ∧ (s.testChange m p).rout = s.rout ∧
    (s.testChange m p).btx = s.btx ∧ (s.testChange m p).pending = s.pending := by
  unfold State.testChange
  try dsimp only
  (repeat' split) <;> simp

@[simp] theorem slotArrives_frame (m : Fin 32) (b : SlotBytes) (s : State) :
    (s.slotArrives m b).now = s.now ∧ (s.slotArrives m b).windowClosed = s.windowClosed ∧
    (s.slotArrives m b).held = s.held ∧ (s.slotArrives m b).active = s.active ∧
    (s.slotArrives m b).staging = s.staging ∧ (s.slotArrives m b).ring = s.ring ∧
    (s.slotArrives m b).bus = s.bus ∧ (s.slotArrives m b).boundary = s.boundary ∧
    (s.slotArrives m b).restartDue = s.restartDue ∧ (s.slotArrives m b).rout = s.rout ∧
    (s.slotArrives m b).btx = s.btx ∧ (s.slotArrives m b).pending = s.pending := by
  unfold State.slotArrives
  simp

@[simp] theorem classLost_frame (m : Fin 32) (s : State) :
    (s.classLost m).now = s.now ∧ (s.classLost m).windowClosed = s.windowClosed ∧
    (s.classLost m).held = s.held ∧ (s.classLost m).active = s.active ∧ (s.classLost m).staging = s.staging ∧
    (s.classLost m).ring = s.ring ∧ (s.classLost m).bus = s.bus ∧ (s.classLost m).engine = s.engine ∧
    (s.classLost m).boundary = s.boundary ∧ (s.classLost m).restartDue = s.restartDue ∧
    (s.classLost m).rout = s.rout ∧ (s.classLost m).btx = s.btx ∧ (s.classLost m).pending = s.pending := by
  unfold State.classLost
  simp

@[simp] theorem giveClassLost_frame (s : State) :
    (s.giveClassLost).now = s.now ∧ (s.giveClassLost).windowClosed = s.windowClosed ∧
    (s.giveClassLost).held = s.held ∧ (s.giveClassLost).active = s.active ∧
    (s.giveClassLost).staging = s.staging ∧ (s.giveClassLost).ring = s.ring ∧ (s.giveClassLost).bus = s.bus ∧
    (s.giveClassLost).engine = s.engine ∧ (s.giveClassLost).boundary = s.boundary ∧
    (s.giveClassLost).restartDue = s.restartDue ∧ (s.giveClassLost).rout = s.rout ∧
    (s.giveClassLost).btx = s.btx ∧ (s.giveClassLost).pending = s.pending := by
  unfold State.giveClassLost
  refine ⟨?_, ?_, ?_, ?_, ?_, ?_, ?_, ?_, ?_, ?_, ?_, ?_, ?_⟩
  all_goals
    refine foldl_keeps (fun s m => ?_) allBoxes s
    split <;> simp

@[simp] theorem ageReport_frame (m : Fin 32) (s : State) :
    (s.ageReport m).now = s.now ∧ (s.ageReport m).windowClosed = s.windowClosed ∧
    (s.ageReport m).held = s.held ∧ (s.ageReport m).active = s.active ∧ (s.ageReport m).staging = s.staging ∧
    (s.ageReport m).ring = s.ring ∧ (s.ageReport m).bus = s.bus ∧ (s.ageReport m).engine = s.engine ∧
    (s.ageReport m).boundary = s.boundary ∧ (s.ageReport m).restartDue = s.restartDue ∧
    (s.ageReport m).rout = s.rout ∧ (s.ageReport m).btx = s.btx ∧ (s.ageReport m).pending = s.pending := by
  unfold State.ageReport
  try dsimp only
  (repeat' split) <;> simp

@[simp] theorem loseReply_frame (o : Owner) (s : State) :
    (s.loseReply o).now = s.now ∧ (s.loseReply o).windowClosed = s.windowClosed ∧
    (s.loseReply o).held = s.held ∧ (s.loseReply o).boxes = s.boxes ∧ (s.loseReply o).active = s.active ∧
    (s.loseReply o).staging = s.staging ∧ (s.loseReply o).ring = s.ring ∧ (s.loseReply o).bus = s.bus ∧
    (s.loseReply o).engine = s.engine ∧ (s.loseReply o).notices = s.notices ∧
    (s.loseReply o).boundary = s.boundary ∧ (s.loseReply o).rout = s.rout ∧ (s.loseReply o).btx = s.btx ∧
    (s.loseReply o).pending = s.pending := by
  unfold State.loseReply
  try dsimp only
  (repeat' split) <;> simp

@[simp] theorem discard_frame (s : State) :
    (s.discard).now = s.now ∧ (s.discard).windowClosed = s.windowClosed ∧ (s.discard).held = s.held ∧
    (s.discard).boxes = s.boxes ∧ (s.discard).active = s.active ∧ (s.discard).staging = s.staging ∧
    (s.discard).ring = s.ring ∧ (s.discard).bus = s.bus ∧ (s.discard).engine = s.engine ∧
    (s.discard).notices = s.notices ∧ (s.discard).boundary = s.boundary ∧ (s.discard).rout = s.rout ∧
    (s.discard).btx = s.btx ∧ (s.discard).pending = s.pending := by
  unfold State.discard
  split
  · refine ⟨?_, ?_, ?_, ?_, ?_, ?_, ?_, ?_, ?_, ?_, ?_, ?_, ?_, ?_⟩
    all_goals exact (foldl_keeps (fun s o => by simp) _ _).trans (by simp)
  · split <;> simp

@[simp] theorem ownerStarts_frame (o : Owner) (s : State) :
    (s.ownerStarts o).now = s.now ∧ (s.ownerStarts o).windowClosed = s.windowClosed ∧
    (s.ownerStarts o).held = s.held ∧ (s.ownerStarts o).active = s.active ∧
    (s.ownerStarts o).staging = s.staging ∧ (s.ownerStarts o).ring = s.ring ∧ (s.ownerStarts o).bus = s.bus ∧
    (s.ownerStarts o).engine = s.engine ∧ (s.ownerStarts o).counters = s.counters ∧
    (s.ownerStarts o).boundary = s.boundary ∧ (s.ownerStarts o).restartDue = s.restartDue ∧
    (s.ownerStarts o).rout = s.rout ∧ (s.ownerStarts o).btx = s.btx ∧ (s.ownerStarts o).pending = s.pending := by
  unfold State.ownerStarts
  try dsimp only
  (repeat' split) <;> simp

@[simp] theorem start_frame (e : Entry) (s : State) :
    (s.start e).now = s.now ∧ (s.start e).windowClosed = s.windowClosed ∧ (s.start e).held = s.held ∧
    (s.start e).active = s.active ∧ (s.start e).staging = s.staging ∧ (s.start e).ring = s.ring ∧
    (s.start e).engine = s.engine ∧ (s.start e).counters = s.counters ∧ (s.start e).boundary = s.boundary ∧
    (s.start e).restartDue = s.restartDue ∧ (s.start e).rout = s.rout ∧ (s.start e).pending = s.pending := by
  unfold State.start
  simp

@[simp] theorem select_frame (s : State) :
    (s.select).now = s.now ∧ (s.select).windowClosed = s.windowClosed ∧ (s.select).held = s.held ∧
    (s.select).active = s.active ∧ (s.select).staging = s.staging ∧ (s.select).ring = s.ring ∧
    (s.select).engine = s.engine ∧ (s.select).boundary = s.boundary ∧ (s.select).rout = s.rout ∧
    (s.select).pending = s.pending := by
  unfold State.select
  try dsimp only
  (repeat' split) <;> simp

@[simp] theorem retire_frame (m : Fin 32) (s : State) :
    (s.retire m).now = s.now ∧ (s.retire m).windowClosed = s.windowClosed ∧ (s.retire m).held = s.held ∧
    (s.retire m).boxes = s.boxes ∧ (s.retire m).active = s.active ∧ (s.retire m).staging = s.staging ∧
    (s.retire m).ring = s.ring ∧ (s.retire m).bus = s.bus ∧ (s.retire m).engine = s.engine ∧
    (s.retire m).notices = s.notices ∧ (s.retire m).counters = s.counters ∧ (s.retire m).boundary = s.boundary ∧
    (s.retire m).restartDue = s.restartDue ∧ (s.retire m).rout = s.rout ∧ (s.retire m).btx = s.btx ∧
    (s.retire m).pending = s.pending := by
  unfold State.retire
  try dsimp only
  (repeat' split) <;> simp

@[simp] theorem returnReport_frame (m : Fin 32) (e : Entry) (s : State) :
    (s.returnReport m e).now = s.now ∧ (s.returnReport m e).windowClosed = s.windowClosed ∧
    (s.returnReport m e).held = s.held ∧ (s.returnReport m e).active = s.active ∧
    (s.returnReport m e).staging = s.staging ∧ (s.returnReport m e).ring = s.ring ∧
    (s.returnReport m e).bus = s.bus ∧ (s.returnReport m e).engine = s.engine ∧
    (s.returnReport m e).notices = s.notices ∧ (s.returnReport m e).counters = s.counters ∧
    (s.returnReport m e).boundary = s.boundary ∧ (s.returnReport m e).restartDue = s.restartDue ∧
    (s.returnReport m e).rout = s.rout ∧ (s.returnReport m e).btx = s.btx ∧
    (s.returnReport m e).pending = s.pending := by
  unfold State.returnReport
  simp

@[simp] theorem returnEntry_frame (e : Entry) (s : State) :
    (s.returnEntry e).now = s.now ∧ (s.returnEntry e).windowClosed = s.windowClosed ∧
    (s.returnEntry e).held = s.held ∧ (s.returnEntry e).active = s.active ∧
    (s.returnEntry e).staging = s.staging ∧ (s.returnEntry e).ring = s.ring ∧ (s.returnEntry e).bus = s.bus ∧
    (s.returnEntry e).engine = s.engine ∧ (s.returnEntry e).notices = s.notices ∧
    (s.returnEntry e).counters = s.counters ∧ (s.returnEntry e).boundary = s.boundary ∧
    (s.returnEntry e).restartDue = s.restartDue ∧ (s.returnEntry e).rout = s.rout ∧
    (s.returnEntry e).btx = s.btx ∧ (s.returnEntry e).pending = s.pending := by
  unfold State.returnEntry
  try dsimp only
  (repeat' split) <;> simp

@[simp] theorem reportLeaves_frame (m : Fin 32) (s : State) :
    (s.reportLeaves m).now = s.now ∧ (s.reportLeaves m).windowClosed = s.windowClosed ∧
    (s.reportLeaves m).held = s.held ∧ (s.reportLeaves m).active = s.active ∧
    (s.reportLeaves m).staging = s.staging ∧ (s.reportLeaves m).ring = s.ring ∧ (s.reportLeaves m).bus = s.bus ∧
    (s.reportLeaves m).engine = s.engine ∧ (s.reportLeaves m).notices = s.notices ∧
    (s.reportLeaves m).counters = s.counters ∧ (s.reportLeaves m).boundary = s.boundary ∧
    (s.reportLeaves m).restartDue = s.restartDue ∧ (s.reportLeaves m).rout = s.rout ∧
    (s.reportLeaves m).btx = s.btx ∧ (s.reportLeaves m).pending = s.pending := by
  unfold State.reportLeaves
  try dsimp only
  (repeat' split) <;> simp

@[simp] theorem completeReport_frame (m : Fin 32) (s : State) :
    (s.completeReport m).now = s.now ∧ (s.completeReport m).windowClosed = s.windowClosed ∧
    (s.completeReport m).held = s.held ∧ (s.completeReport m).active = s.active ∧
    (s.completeReport m).staging = s.staging ∧ (s.completeReport m).ring = s.ring ∧
    (s.completeReport m).bus = s.bus ∧ (s.completeReport m).engine = s.engine ∧
    (s.completeReport m).notices = s.notices ∧ (s.completeReport m).boundary = s.boundary ∧
    (s.completeReport m).restartDue = s.restartDue ∧ (s.completeReport m).rout = s.rout ∧
    (s.completeReport m).btx = s.btx ∧ (s.completeReport m).pending = s.pending := by
  unfold State.completeReport
  simp

@[simp] theorem abandonReport_frame (m : Fin 32) (s : State) :
    (s.abandonReport m).now = s.now ∧ (s.abandonReport m).windowClosed = s.windowClosed ∧
    (s.abandonReport m).held = s.held ∧ (s.abandonReport m).active = s.active ∧
    (s.abandonReport m).staging = s.staging ∧ (s.abandonReport m).ring = s.ring ∧
    (s.abandonReport m).bus = s.bus ∧ (s.abandonReport m).engine = s.engine ∧
    (s.abandonReport m).boundary = s.boundary ∧ (s.abandonReport m).restartDue = s.restartDue ∧
    (s.abandonReport m).rout = s.rout ∧ (s.abandonReport m).btx = s.btx ∧
    (s.abandonReport m).pending = s.pending := by
  unfold State.abandonReport
  simp

@[simp] theorem abandonEntry_frame (e : Entry) (s : State) :
    (s.abandonEntry e).now = s.now ∧ (s.abandonEntry e).windowClosed = s.windowClosed ∧
    (s.abandonEntry e).held = s.held ∧ (s.abandonEntry e).active = s.active ∧
    (s.abandonEntry e).staging = s.staging ∧ (s.abandonEntry e).ring = s.ring ∧ (s.abandonEntry e).bus = s.bus ∧
    (s.abandonEntry e).engine = s.engine ∧ (s.abandonEntry e).boundary = s.boundary ∧
    (s.abandonEntry e).rout = s.rout ∧ (s.abandonEntry e).btx = s.btx ∧ (s.abandonEntry e).pending = s.pending := by
  unfold State.abandonEntry
  try dsimp only
  (repeat' split) <;> simp

@[simp] theorem errorEntry_frame (e : Entry) (s : State) :
    (s.errorEntry e).now = s.now ∧ (s.errorEntry e).windowClosed = s.windowClosed ∧
    (s.errorEntry e).held = s.held ∧ (s.errorEntry e).active = s.active ∧ (s.errorEntry e).staging = s.staging ∧
    (s.errorEntry e).ring = s.ring ∧ (s.errorEntry e).bus = s.bus ∧ (s.errorEntry e).engine = s.engine ∧
    (s.errorEntry e).boundary = s.boundary ∧ (s.errorEntry e).rout = s.rout ∧ (s.errorEntry e).btx = s.btx ∧
    (s.errorEntry e).pending = s.pending := by
  unfold State.errorEntry
  try dsimp only
  (repeat' split) <;> simp

@[simp] theorem completeEntry_frame (e : Entry) (s : State) :
    (s.completeEntry e).now = s.now ∧ (s.completeEntry e).windowClosed = s.windowClosed ∧
    (s.completeEntry e).held = s.held ∧ (s.completeEntry e).active = s.active ∧
    (s.completeEntry e).staging = s.staging ∧ (s.completeEntry e).ring = s.ring ∧
    (s.completeEntry e).bus = s.bus ∧ (s.completeEntry e).engine = s.engine ∧
    (s.completeEntry e).boundary = s.boundary ∧ (s.completeEntry e).rout = s.rout ∧
    (s.completeEntry e).btx = s.btx ∧ (s.completeEntry e).pending = s.pending := by
  unfold State.completeEntry
  try dsimp only
  (repeat' split) <;> simp

@[simp] theorem selfFeed_frame (e : Entry) (f : Frame) (s : State) :
    (s.selfFeed e f).now = s.now ∧ (s.selfFeed e f).windowClosed = s.windowClosed ∧
    (s.selfFeed e f).held = s.held ∧ (s.selfFeed e f).active = s.active ∧ (s.selfFeed e f).staging = s.staging ∧
    (s.selfFeed e f).ring = s.ring ∧ (s.selfFeed e f).bus = s.bus ∧ (s.selfFeed e f).boundary = s.boundary ∧
    (s.selfFeed e f).restartDue = s.restartDue ∧ (s.selfFeed e f).rout = s.rout ∧ (s.selfFeed e f).btx = s.btx ∧
    (s.selfFeed e f).pending = s.pending := by
  unfold State.selfFeed
  try dsimp only
  (repeat' split) <;> simp

@[simp] theorem badSlot_frame (s : State) :
    (s.badSlot).now = s.now ∧ (s.badSlot).windowClosed = s.windowClosed ∧ (s.badSlot).held = s.held ∧
    (s.badSlot).boxes = s.boxes ∧ (s.badSlot).active = s.active ∧ (s.badSlot).staging = s.staging ∧
    (s.badSlot).ring = s.ring ∧ (s.badSlot).bus = s.bus ∧ (s.badSlot).engine = s.engine ∧
    (s.badSlot).boundary = s.boundary ∧ (s.badSlot).restartDue = s.restartDue ∧ (s.badSlot).rout = s.rout ∧
    (s.badSlot).btx = s.btx ∧ (s.badSlot).pending = s.pending := by
  unfold State.badSlot
  simp

@[simp] theorem cutInbound_frame (s : State) :
    (s.cutInbound).now = s.now ∧ (s.cutInbound).windowClosed = s.windowClosed ∧ (s.cutInbound).held = s.held ∧
    (s.cutInbound).boxes = s.boxes ∧ (s.cutInbound).active = s.active ∧ (s.cutInbound).staging = s.staging ∧
    (s.cutInbound).tx = s.tx ∧ (s.cutInbound).bus = s.bus ∧ (s.cutInbound).engine = s.engine ∧
    (s.cutInbound).notices = s.notices ∧ (s.cutInbound).counters = s.counters ∧
    (s.cutInbound).boundary = s.boundary ∧ (s.cutInbound).restartDue = s.restartDue ∧
    (s.cutInbound).btx = s.btx ∧ (s.cutInbound).pending = s.pending := by
  unfold State.cutInbound
  try dsimp only
  (repeat' split) <;> simp

@[simp] theorem cutOutbound_frame (s : State) :
    (s.cutOutbound).now = s.now ∧ (s.cutOutbound).windowClosed = s.windowClosed ∧
    (s.cutOutbound).held = s.held ∧ (s.cutOutbound).boxes = s.boxes ∧ (s.cutOutbound).active = s.active ∧
    (s.cutOutbound).staging = s.staging ∧ (s.cutOutbound).tx = s.tx ∧ (s.cutOutbound).bus = s.bus ∧
    (s.cutOutbound).engine = s.engine ∧ (s.cutOutbound).notices = s.notices ∧
    (s.cutOutbound).counters = s.counters ∧ (s.cutOutbound).boundary = s.boundary ∧
    (s.cutOutbound).restartDue = s.restartDue ∧ (s.cutOutbound).btx = s.btx ∧
    (s.cutOutbound).pending = s.pending := by
  unfold State.cutOutbound
  try dsimp only
  (repeat' split) <;> simp

@[simp] theorem truncate_frame (s : State) :
    (s.truncate).now = s.now ∧ (s.truncate).windowClosed = s.windowClosed ∧ (s.truncate).held = s.held ∧
    (s.truncate).boxes = s.boxes ∧ (s.truncate).active = s.active ∧ (s.truncate).staging = s.staging ∧
    (s.truncate).bus = s.bus ∧ (s.truncate).engine = s.engine ∧ (s.truncate).boundary = s.boundary ∧
    (s.truncate).restartDue = s.restartDue ∧ (s.truncate).btx = s.btx ∧ (s.truncate).pending = s.pending := by
  unfold State.truncate
  try dsimp only
  (repeat' split) <;> simp

@[simp] theorem loseLock_frame (s : State) :
    (s.loseLock).now = s.now ∧ (s.loseLock).windowClosed = s.windowClosed ∧ (s.loseLock).held = s.held ∧
    (s.loseLock).active = s.active ∧ (s.loseLock).staging = s.staging ∧ (s.loseLock).bus = s.bus ∧
    (s.loseLock).engine = s.engine ∧ (s.loseLock).boundary = s.boundary ∧
    (s.loseLock).restartDue = s.restartDue ∧ (s.loseLock).rout = s.rout ∧ (s.loseLock).btx = s.btx ∧
    (s.loseLock).pending = s.pending := by
  unfold State.loseLock
  try dsimp only
  (repeat' split) <;> simp

@[simp] theorem missEffect_frame (a : Bool) (x : Byte) (s : State) :
    (s.missEffect a x).now = s.now ∧ (s.missEffect a x).windowClosed = s.windowClosed ∧
    (s.missEffect a x).held = s.held ∧ (s.missEffect a x).active = s.active ∧
    (s.missEffect a x).staging = s.staging ∧ (s.missEffect a x).bus = s.bus ∧
    (s.missEffect a x).engine = s.engine ∧ (s.missEffect a x).boundary = s.boundary ∧
    (s.missEffect a x).restartDue = s.restartDue ∧ (s.missEffect a x).rout = s.rout ∧
    (s.missEffect a x).btx = s.btx ∧ (s.missEffect a x).pending = s.pending := by
  unfold State.missEffect
  try dsimp only
  (repeat' split) <;> simp

@[simp] theorem miss_frame (a : Bool) (x : Byte) (s : State) :
    (s.miss a x).now = s.now ∧ (s.miss a x).windowClosed = s.windowClosed ∧ (s.miss a x).held = s.held ∧
    (s.miss a x).active = s.active ∧ (s.miss a x).staging = s.staging ∧ (s.miss a x).bus = s.bus ∧
    (s.miss a x).engine = s.engine ∧ (s.miss a x).boundary = s.boundary ∧
    (s.miss a x).restartDue = s.restartDue ∧ (s.miss a x).rout = s.rout ∧ (s.miss a x).btx = s.btx ∧
    (s.miss a x).pending = s.pending := by
  unfold State.miss
  simp

@[simp] theorem foreignMark_frame (time : Nat) (n : Byte) (s : State) :
    (s.foreignMark time n).now = s.now ∧ (s.foreignMark time n).windowClosed = s.windowClosed ∧
    (s.foreignMark time n).held = s.held ∧ (s.foreignMark time n).active = s.active ∧
    (s.foreignMark time n).staging = s.staging ∧ (s.foreignMark time n).bus = s.bus ∧
    (s.foreignMark time n).engine = s.engine ∧ (s.foreignMark time n).boundary = s.boundary ∧
    (s.foreignMark time n).restartDue = s.restartDue ∧ (s.foreignMark time n).rout = s.rout ∧
    (s.foreignMark time n).btx = s.btx ∧ (s.foreignMark time n).pending = s.pending := by
  unfold State.foreignMark
  try dsimp only
  (repeat' split) <;> simp

@[simp] theorem badMark_frame (time : Nat) (s : State) :
    (s.badMark time).now = s.now ∧ (s.badMark time).windowClosed = s.windowClosed ∧
    (s.badMark time).held = s.held ∧ (s.badMark time).active = s.active ∧ (s.badMark time).staging = s.staging ∧
    (s.badMark time).bus = s.bus ∧ (s.badMark time).engine = s.engine ∧ (s.badMark time).boundary = s.boundary ∧
    (s.badMark time).restartDue = s.restartDue ∧ (s.badMark time).rout = s.rout ∧ (s.badMark time).btx = s.btx ∧
    (s.badMark time).pending = s.pending := by
  unfold State.badMark
  try dsimp only
  (repeat' split) <;> simp

@[simp] theorem slotBegins_frame (s : State) :
    (s.slotBegins).now = s.now ∧ (s.slotBegins).windowClosed = s.windowClosed ∧ (s.slotBegins).held = s.held ∧
    (s.slotBegins).active = s.active ∧ (s.slotBegins).staging = s.staging ∧ (s.slotBegins).tx = s.tx ∧
    (s.slotBegins).bus = s.bus ∧ (s.slotBegins).engine = s.engine ∧ (s.slotBegins).notices = s.notices ∧
    (s.slotBegins).counters = s.counters ∧ (s.slotBegins).boundary = s.boundary ∧
    (s.slotBegins).restartDue = s.restartDue ∧ (s.slotBegins).rout = s.rout ∧ (s.slotBegins).btx = s.btx ∧
    (s.slotBegins).pending = s.pending := by
  unfold State.slotBegins
  try dsimp only
  (repeat' split) <;> simp

@[simp] theorem reemit_frame (r : InRound) (b : SlotBytes) (s : State) :
    (s.reemit r b).now = s.now ∧ (s.reemit r b).windowClosed = s.windowClosed ∧ (s.reemit r b).held = s.held ∧
    (s.reemit r b).boxes = s.boxes ∧ (s.reemit r b).active = s.active ∧ (s.reemit r b).staging = s.staging ∧
    (s.reemit r b).ring = s.ring ∧ (s.reemit r b).tx = s.tx ∧ (s.reemit r b).bus = s.bus ∧
    (s.reemit r b).engine = s.engine ∧ (s.reemit r b).notices = s.notices ∧
    (s.reemit r b).counters = s.counters ∧ (s.reemit r b).boundary = s.boundary ∧
    (s.reemit r b).restartDue = s.restartDue ∧ (s.reemit r b).btx = s.btx ∧ (s.reemit r b).pending = s.pending := by
  unfold State.reemit
  try dsimp only
  (repeat' split) <;> simp

@[simp] theorem readSlot_frame (r : InRound) (b : SlotBytes) (s : State) :
    (s.readSlot r b).now = s.now ∧ (s.readSlot r b).windowClosed = s.windowClosed ∧
    (s.readSlot r b).held = s.held ∧ (s.readSlot r b).active = s.active ∧ (s.readSlot r b).staging = s.staging ∧
    (s.readSlot r b).ring = s.ring ∧ (s.readSlot r b).bus = s.bus ∧ (s.readSlot r b).boundary = s.boundary ∧
    (s.readSlot r b).restartDue = s.restartDue ∧ (s.readSlot r b).rout = s.rout ∧ (s.readSlot r b).btx = s.btx ∧
    (s.readSlot r b).pending = s.pending := by
  unfold State.readSlot
  try dsimp only
  (repeat' split) <;> simp

@[simp] theorem slotEnds_frame (b : SlotBytes) (s : State) :
    (s.slotEnds b).now = s.now ∧ (s.slotEnds b).windowClosed = s.windowClosed ∧ (s.slotEnds b).held = s.held ∧
    (s.slotEnds b).active = s.active ∧ (s.slotEnds b).staging = s.staging ∧ (s.slotEnds b).bus = s.bus ∧
    (s.slotEnds b).boundary = s.boundary ∧ (s.slotEnds b).restartDue = s.restartDue ∧
    (s.slotEnds b).btx = s.btx ∧ (s.slotEnds b).pending = s.pending := by
  unfold State.slotEnds
  try dsimp only
  (repeat' split) <;> simp

@[simp] theorem emitRound_frame (s : State) :
    (s.emitRound).now = s.now ∧ (s.emitRound).windowClosed = s.windowClosed ∧ (s.emitRound).held = s.held ∧
    (s.emitRound).boxes = s.boxes ∧ (s.emitRound).active = s.active ∧ (s.emitRound).staging = s.staging ∧
    (s.emitRound).tx = s.tx ∧ (s.emitRound).bus = s.bus ∧ (s.emitRound).engine = s.engine ∧
    (s.emitRound).notices = s.notices ∧ (s.emitRound).counters = s.counters ∧
    (s.emitRound).boundary = s.boundary ∧ (s.emitRound).restartDue = s.restartDue ∧
    (s.emitRound).rout = s.rout ∧ (s.emitRound).btx = s.btx ∧ (s.emitRound).pending = s.pending := by
  unfold State.emitRound
  simp

@[simp] theorem masterDrive_frame (n : Nat) (s : State) :
    (s.masterDrive n).now = s.now ∧ (s.masterDrive n).windowClosed = s.windowClosed ∧
    (s.masterDrive n).held = s.held ∧ (s.masterDrive n).active = s.active ∧
    (s.masterDrive n).staging = s.staging ∧ (s.masterDrive n).ring = s.ring ∧ (s.masterDrive n).tx = s.tx ∧
    (s.masterDrive n).bus = s.bus ∧ (s.masterDrive n).engine = s.engine ∧
    (s.masterDrive n).notices = s.notices ∧ (s.masterDrive n).counters = s.counters ∧
    (s.masterDrive n).boundary = s.boundary ∧ (s.masterDrive n).restartDue = s.restartDue ∧
    (s.masterDrive n).rout = s.rout ∧ (s.masterDrive n).btx = s.btx ∧ (s.masterDrive n).pending = s.pending := by
  unfold State.masterDrive
  try dsimp only
  (repeat' split) <;> simp

@[simp] theorem slotInstant_frame (o : OutRound) (s : State) :
    (s.slotInstant o).now = s.now ∧ (s.slotInstant o).windowClosed = s.windowClosed ∧
    (s.slotInstant o).held = s.held ∧ (s.slotInstant o).active = s.active ∧
    (s.slotInstant o).staging = s.staging ∧ (s.slotInstant o).tx = s.tx ∧ (s.slotInstant o).bus = s.bus ∧
    (s.slotInstant o).engine = s.engine ∧ (s.slotInstant o).notices = s.notices ∧
    (s.slotInstant o).counters = s.counters ∧ (s.slotInstant o).boundary = s.boundary ∧
    (s.slotInstant o).restartDue = s.restartDue ∧ (s.slotInstant o).btx = s.btx ∧
    (s.slotInstant o).pending = s.pending := by
  unfold State.slotInstant
  try dsimp only
  (repeat' split) <;> simp

@[simp] theorem emitSlots_frame (t n : Nat) (s : State) :
    (s.emitSlots t n).now = s.now ∧ (s.emitSlots t n).windowClosed = s.windowClosed ∧
    (s.emitSlots t n).held = s.held ∧ (s.emitSlots t n).active = s.active ∧
    (s.emitSlots t n).staging = s.staging ∧ (s.emitSlots t n).tx = s.tx ∧ (s.emitSlots t n).bus = s.bus ∧
    (s.emitSlots t n).engine = s.engine ∧ (s.emitSlots t n).notices = s.notices ∧
    (s.emitSlots t n).counters = s.counters ∧ (s.emitSlots t n).boundary = s.boundary ∧
    (s.emitSlots t n).restartDue = s.restartDue ∧ (s.emitSlots t n).btx = s.btx ∧
    (s.emitSlots t n).pending = s.pending := by
  induction n generalizing s with
  | zero => simp [State.emitSlots]
  | succ n ih =>
    unfold State.emitSlots
    (repeat' split) <;> simp [ih]

@[simp] theorem advanceTo_frame (t : Nat) (s : State) :
    (s.advanceTo t).windowClosed = s.windowClosed ∧ (s.advanceTo t).held = s.held ∧
    (s.advanceTo t).active = s.active ∧ (s.advanceTo t).staging = s.staging ∧ (s.advanceTo t).tx = s.tx ∧
    (s.advanceTo t).bus = s.bus ∧ (s.advanceTo t).engine = s.engine ∧ (s.advanceTo t).notices = s.notices ∧
    (s.advanceTo t).counters = s.counters ∧ (s.advanceTo t).boundary = s.boundary ∧
    (s.advanceTo t).restartDue = s.restartDue ∧ (s.advanceTo t).btx = s.btx ∧
    (s.advanceTo t).pending = s.pending := by
  unfold State.advanceTo
  simp

@[simp] theorem resetChanged_frame (m : Fin 32) (s : State) :
    (s.resetChanged m).now = s.now ∧ (s.resetChanged m).windowClosed = s.windowClosed ∧
    (s.resetChanged m).held = s.held ∧ (s.resetChanged m).active = s.active ∧
    (s.resetChanged m).staging = s.staging ∧ (s.resetChanged m).ring = s.ring ∧ (s.resetChanged m).bus = s.bus ∧
    (s.resetChanged m).boundary = s.boundary ∧ (s.resetChanged m).restartDue = s.restartDue ∧
    (s.resetChanged m).rout = s.rout ∧ (s.resetChanged m).btx = s.btx ∧ (s.resetChanged m).pending = s.pending := by
  unfold State.resetChanged
  try dsimp only
  (repeat' split) <;> simp

@[simp] theorem resetAllChanged_frame (o n : Image) (s : State) :
    (s.resetAllChanged o n).now = s.now ∧ (s.resetAllChanged o n).windowClosed = s.windowClosed ∧
    (s.resetAllChanged o n).held = s.held ∧ (s.resetAllChanged o n).active = s.active ∧
    (s.resetAllChanged o n).staging = s.staging ∧ (s.resetAllChanged o n).ring = s.ring ∧
    (s.resetAllChanged o n).bus = s.bus ∧ (s.resetAllChanged o n).boundary = s.boundary ∧
    (s.resetAllChanged o n).restartDue = s.restartDue ∧ (s.resetAllChanged o n).rout = s.rout ∧
    (s.resetAllChanged o n).btx = s.btx ∧ (s.resetAllChanged o n).pending = s.pending := by
  unfold State.resetAllChanged
  refine ⟨?_, ?_, ?_, ?_, ?_, ?_, ?_, ?_, ?_, ?_, ?_, ?_⟩
  all_goals
    refine foldl_keeps (fun s m => ?_) allBoxes s
    split <;> simp

@[simp] theorem profileCounts_frame (o n : Profile) (s : State) :
    (s.profileCounts o n).now = s.now ∧ (s.profileCounts o n).windowClosed = s.windowClosed ∧
    (s.profileCounts o n).held = s.held ∧ (s.profileCounts o n).boxes = s.boxes ∧
    (s.profileCounts o n).active = s.active ∧ (s.profileCounts o n).staging = s.staging ∧
    (s.profileCounts o n).ring = s.ring ∧ (s.profileCounts o n).tx = s.tx ∧ (s.profileCounts o n).bus = s.bus ∧
    (s.profileCounts o n).engine = s.engine ∧ (s.profileCounts o n).boundary = s.boundary ∧
    (s.profileCounts o n).restartDue = s.restartDue ∧ (s.profileCounts o n).rout = s.rout ∧
    (s.profileCounts o n).btx = s.btx ∧ (s.profileCounts o n).pending = s.pending := by
  unfold State.profileCounts
  try dsimp only
  (repeat' split) <;> simp

@[simp] theorem endLock_frame (s : State) :
    (s.endLock).now = s.now ∧ (s.endLock).windowClosed = s.windowClosed ∧ (s.endLock).held = s.held ∧
    (s.endLock).active = s.active ∧ (s.endLock).staging = s.staging ∧ (s.endLock).bus = s.bus ∧
    (s.endLock).engine = s.engine ∧ (s.endLock).boundary = s.boundary ∧ (s.endLock).restartDue = s.restartDue ∧
    (s.endLock).rout = s.rout ∧ (s.endLock).btx = s.btx ∧ (s.endLock).pending = s.pending := by
  unfold State.endLock
  try dsimp only
  (repeat' split) <;> simp

@[simp] theorem becomeMaster_frame (s : State) :
    (s.becomeMaster).now = s.now ∧ (s.becomeMaster).windowClosed = s.windowClosed ∧
    (s.becomeMaster).held = s.held ∧ (s.becomeMaster).active = s.active ∧ (s.becomeMaster).staging = s.staging ∧
    (s.becomeMaster).bus = s.bus ∧ (s.becomeMaster).engine = s.engine ∧ (s.becomeMaster).boundary = s.boundary ∧
    (s.becomeMaster).restartDue = s.restartDue ∧ (s.becomeMaster).rout = s.rout ∧ (s.becomeMaster).btx = s.btx ∧
    (s.becomeMaster).pending = s.pending := by
  unfold State.becomeMaster
  simp

@[simp] theorem becomeFollower_frame (s : State) :
    (s.becomeFollower).now = s.now ∧ (s.becomeFollower).windowClosed = s.windowClosed ∧
    (s.becomeFollower).held = s.held ∧ (s.becomeFollower).active = s.active ∧
    (s.becomeFollower).staging = s.staging ∧ (s.becomeFollower).bus = s.bus ∧
    (s.becomeFollower).engine = s.engine ∧ (s.becomeFollower).boundary = s.boundary ∧
    (s.becomeFollower).restartDue = s.restartDue ∧ (s.becomeFollower).rout = s.rout ∧
    (s.becomeFollower).btx = s.btx ∧ (s.becomeFollower).pending = s.pending := by
  unfold State.becomeFollower
  simp

@[simp] theorem changeRole_frame (o n : RingRole) (s : State) :
    (s.changeRole o n).now = s.now ∧ (s.changeRole o n).windowClosed = s.windowClosed ∧
    (s.changeRole o n).held = s.held ∧ (s.changeRole o n).active = s.active ∧
    (s.changeRole o n).staging = s.staging ∧ (s.changeRole o n).bus = s.bus ∧
    (s.changeRole o n).engine = s.engine ∧ (s.changeRole o n).boundary = s.boundary ∧
    (s.changeRole o n).restartDue = s.restartDue ∧ (s.changeRole o n).rout = s.rout ∧
    (s.changeRole o n).btx = s.btx ∧ (s.changeRole o n).pending = s.pending := by
  unfold State.changeRole
  try dsimp only
  (repeat' split) <;> simp

@[simp] theorem swapCommit_frame (c : PendingCommit) (n : Byte) (s : State) :
    (s.swapCommit c n).now = s.now ∧ (s.swapCommit c n).windowClosed = s.windowClosed ∧
    (s.swapCommit c n).held = s.held ∧ (s.swapCommit c n).staging = s.staging ∧ (s.swapCommit c n).bus = s.bus ∧
    (s.swapCommit c n).boundary = s.boundary ∧ (s.swapCommit c n).restartDue = s.restartDue ∧
    (s.swapCommit c n).rout = s.rout ∧ (s.swapCommit c n).btx = s.btx ∧ (s.swapCommit c n).pending = s.pending := by
  unfold State.swapCommit
  simp

@[simp] theorem swapPending_frame (n : Byte) (s : State) :
    (s.swapPending n).now = s.now ∧ (s.swapPending n).windowClosed = s.windowClosed ∧
    (s.swapPending n).held = s.held ∧ (s.swapPending n).staging = s.staging ∧ (s.swapPending n).bus = s.bus ∧
    (s.swapPending n).boundary = s.boundary ∧ (s.swapPending n).restartDue = s.restartDue ∧
    (s.swapPending n).rout = s.rout ∧ (s.swapPending n).btx = s.btx ∧ (s.swapPending n).pending = s.pending := by
  unfold State.swapPending
  try dsimp only
  (repeat' split) <;> simp

@[simp] theorem expireSession_frame (s : State) :
    (s.expireSession).now = s.now ∧ (s.expireSession).windowClosed = s.windowClosed ∧
    (s.expireSession).held = s.held ∧ (s.expireSession).boxes = s.boxes ∧ (s.expireSession).active = s.active ∧
    (s.expireSession).ring = s.ring ∧ (s.expireSession).bus = s.bus ∧ (s.expireSession).counters = s.counters ∧
    (s.expireSession).boundary = s.boundary ∧ (s.expireSession).restartDue = s.restartDue ∧
    (s.expireSession).rout = s.rout ∧ (s.expireSession).btx = s.btx ∧ (s.expireSession).pending = s.pending := by
  unfold State.expireSession
  simp

@[simp] theorem expireRepeat_frame (s : State) :
    (s.expireRepeat).now = s.now ∧ (s.expireRepeat).windowClosed = s.windowClosed ∧
    (s.expireRepeat).held = s.held ∧ (s.expireRepeat).boxes = s.boxes ∧ (s.expireRepeat).active = s.active ∧
    (s.expireRepeat).staging = s.staging ∧ (s.expireRepeat).ring = s.ring ∧ (s.expireRepeat).bus = s.bus ∧
    (s.expireRepeat).engine = s.engine ∧ (s.expireRepeat).counters = s.counters ∧
    (s.expireRepeat).boundary = s.boundary ∧ (s.expireRepeat).restartDue = s.restartDue ∧
    (s.expireRepeat).rout = s.rout ∧ (s.expireRepeat).btx = s.btx ∧ (s.expireRepeat).pending = s.pending := by
  unfold State.expireRepeat
  simp

@[simp] theorem performDue_frame (d : DueStep) (n : Byte) (s : State) :
    (s.performDue d n).now = s.now ∧ (s.performDue d n).windowClosed = s.windowClosed ∧
    (s.performDue d n).held = s.held ∧ (s.performDue d n).bus = s.bus ∧
    (s.performDue d n).boundary = s.boundary ∧ (s.performDue d n).restartDue = s.restartDue ∧
    (s.performDue d n).rout = s.rout ∧ (s.performDue d n).btx = s.btx ∧ (s.performDue d n).pending = s.pending := by
  unfold State.performDue
  try dsimp only
  (repeat' split) <;> simp

@[simp] theorem rearm_frame (s : State) :
    (s.rearm).now = s.now ∧ (s.rearm).windowClosed = s.windowClosed ∧ (s.rearm).held = s.held ∧
    (s.rearm).boxes = s.boxes ∧ (s.rearm).active = s.active ∧ (s.rearm).staging = s.staging ∧
    (s.rearm).tx = s.tx ∧ (s.rearm).bus = s.bus ∧ (s.rearm).engine = s.engine ∧ (s.rearm).notices = s.notices ∧
    (s.rearm).counters = s.counters ∧ (s.rearm).boundary = s.boundary ∧ (s.rearm).restartDue = s.restartDue ∧
    (s.rearm).rout = s.rout ∧ (s.rearm).btx = s.btx ∧ (s.rearm).pending = s.pending := by
  unfold State.rearm
  try dsimp only
  (repeat' split) <;> simp

@[simp] theorem closeBoundary_frame (c : BoundaryCause) (s : State) :
    (s.closeBoundary c).now = s.now ∧ (s.closeBoundary c).windowClosed = s.windowClosed ∧
    (s.closeBoundary c).held = s.held ∧ (s.closeBoundary c).boxes = s.boxes ∧
    (s.closeBoundary c).active = s.active ∧ (s.closeBoundary c).staging = s.staging ∧
    (s.closeBoundary c).tx = s.tx ∧ (s.closeBoundary c).bus = s.bus ∧ (s.closeBoundary c).engine = s.engine ∧
    (s.closeBoundary c).notices = s.notices ∧ (s.closeBoundary c).counters = s.counters ∧
    (s.closeBoundary c).boundary = s.boundary ∧ (s.closeBoundary c).restartDue = s.restartDue ∧
    (s.closeBoundary c).rout = s.rout ∧ (s.closeBoundary c).btx = s.btx ∧
    (s.closeBoundary c).pending = s.pending := by
  unfold State.closeBoundary
  try dsimp only
  (repeat' split) <;> simp

@[simp] theorem sessionWork_frame (s : State) :
    (s.sessionWork.1).now = s.now ∧ (s.sessionWork.1).windowClosed = s.windowClosed ∧
    (s.sessionWork.1).held = s.held ∧ (s.sessionWork.1).boxes = s.boxes ∧ (s.sessionWork.1).active = s.active ∧
    (s.sessionWork.1).staging = s.staging ∧ (s.sessionWork.1).ring = s.ring ∧ (s.sessionWork.1).tx = s.tx ∧
    (s.sessionWork.1).bus = s.bus ∧ (s.sessionWork.1).notices = s.notices ∧
    (s.sessionWork.1).counters = s.counters ∧ (s.sessionWork.1).boundary = s.boundary ∧
    (s.sessionWork.1).restartDue = s.restartDue ∧ (s.sessionWork.1).rout = s.rout ∧
    (s.sessionWork.1).btx = s.btx ∧ (s.sessionWork.1).pending = s.pending := by
  unfold State.sessionWork
  try dsimp only
  (repeat' split) <;> simp

@[simp] theorem snapshotWork_frame (s : State) :
    (s.snapshotWork.1).now = s.now ∧ (s.snapshotWork.1).windowClosed = s.windowClosed ∧
    (s.snapshotWork.1).held = s.held ∧ (s.snapshotWork.1).boxes = s.boxes ∧
    (s.snapshotWork.1).active = s.active ∧ (s.snapshotWork.1).staging = s.staging ∧
    (s.snapshotWork.1).ring = s.ring ∧ (s.snapshotWork.1).tx = s.tx ∧ (s.snapshotWork.1).bus = s.bus ∧
    (s.snapshotWork.1).engine = s.engine ∧ (s.snapshotWork.1).notices = s.notices ∧
    (s.snapshotWork.1).boundary = s.boundary ∧ (s.snapshotWork.1).restartDue = s.restartDue ∧
    (s.snapshotWork.1).rout = s.rout ∧ (s.snapshotWork.1).btx = s.btx ∧ (s.snapshotWork.1).pending = s.pending := by
  unfold State.snapshotWork
  try dsimp only
  (repeat' split) <;> simp

@[simp] theorem repeatWork_frame (s : State) :
    (s.repeatWork.1).now = s.now ∧ (s.repeatWork.1).windowClosed = s.windowClosed ∧
    (s.repeatWork.1).held = s.held ∧ (s.repeatWork.1).boxes = s.boxes ∧ (s.repeatWork.1).active = s.active ∧
    (s.repeatWork.1).staging = s.staging ∧ (s.repeatWork.1).ring = s.ring ∧ (s.repeatWork.1).tx = s.tx ∧
    (s.repeatWork.1).bus = s.bus ∧ (s.repeatWork.1).engine = s.engine ∧ (s.repeatWork.1).counters = s.counters ∧
    (s.repeatWork.1).boundary = s.boundary ∧ (s.repeatWork.1).restartDue = s.restartDue ∧
    (s.repeatWork.1).rout = s.rout ∧ (s.repeatWork.1).btx = s.btx ∧ (s.repeatWork.1).pending = s.pending := by
  unfold State.repeatWork
  simp

@[simp] theorem work_frame (w : BoundaryWork) (s : State) :
    ((s.work w).1).now = s.now ∧ ((s.work w).1).windowClosed = s.windowClosed ∧ ((s.work w).1).held = s.held ∧
    ((s.work w).1).active = s.active ∧ ((s.work w).1).staging = s.staging ∧ ((s.work w).1).ring = s.ring ∧
    ((s.work w).1).bus = s.bus ∧ ((s.work w).1).boundary = s.boundary ∧
    ((s.work w).1).restartDue = s.restartDue ∧ ((s.work w).1).rout = s.rout ∧ ((s.work w).1).btx = s.btx ∧
    ((s.work w).1).pending = s.pending := by
  cases w <;> simp only [State.work]
  case feedAgeing =>
    refine ⟨?_, ?_, ?_, ?_, ?_, ?_, ?_, ?_, ?_, ?_, ?_, ?_⟩
    all_goals
      generalize allBoxes = l
      exact foldl_keeps (g := fun s m => s.ageFeed m) (fun s m => by simp) l s
  case reportAgeing =>
    refine ⟨?_, ?_, ?_, ?_, ?_, ?_, ?_, ?_, ?_, ?_, ?_, ?_⟩
    all_goals
      generalize allBoxes = l
      exact foldl_keeps (g := fun s m => s.ageReport m) (fun s m => by simp) l s
  all_goals simp

@[simp] theorem continueBoundary_frame (n : Byte) (c : BoundaryCause) (l : BoundaryOrder) (s : State) :
    (s.continueBoundary n c l).now = s.now ∧ (s.continueBoundary n c l).windowClosed = s.windowClosed ∧
    (s.continueBoundary n c l).held = s.held ∧ (s.continueBoundary n c l).active = s.active ∧
    (s.continueBoundary n c l).staging = s.staging ∧ (s.continueBoundary n c l).bus = s.bus ∧
    (s.continueBoundary n c l).restartDue = s.restartDue ∧ (s.continueBoundary n c l).rout = s.rout ∧
    (s.continueBoundary n c l).btx = s.btx ∧ (s.continueBoundary n c l).pending = s.pending := by
  induction l generalizing s with
  | nil => simp [State.continueBoundary]
  | cons w l ih =>
    unfold State.continueBoundary
    have h := work_frame w s
    split <;> rename_i e <;> rw [e] at h <;> simp_all

@[simp] theorem raiseBoundary_frame (n : Byte) (c : BoundaryCause) (o : BoundaryOrder) (s : State) :
    (s.raiseBoundary n c o).now = s.now ∧ (s.raiseBoundary n c o).windowClosed = s.windowClosed ∧
    (s.raiseBoundary n c o).held = s.held ∧ (s.raiseBoundary n c o).active = s.active ∧
    (s.raiseBoundary n c o).staging = s.staging ∧ (s.raiseBoundary n c o).bus = s.bus ∧
    (s.raiseBoundary n c o).restartDue = s.restartDue ∧ (s.raiseBoundary n c o).rout = s.rout ∧
    (s.raiseBoundary n c o).btx = s.btx ∧ (s.raiseBoundary n c o).pending = s.pending := by
  unfold State.raiseBoundary
  simp

@[simp] theorem takeDue_frame (b : Boundary) (s : State) :
    (s.takeDue b).now = s.now ∧ (s.takeDue b).windowClosed = s.windowClosed ∧ (s.takeDue b).held = s.held ∧
    (s.takeDue b).bus = s.bus ∧ (s.takeDue b).restartDue = s.restartDue ∧ (s.takeDue b).rout = s.rout ∧
    (s.takeDue b).btx = s.btx ∧ (s.takeDue b).pending = s.pending := by
  unfold State.takeDue
  simp

@[simp] theorem runBoundary_frame (n : Byte) (c : BoundaryCause) (l : BoundaryOrder) (s : State) :
    (s.runBoundary n c l).now = s.now ∧ (s.runBoundary n c l).windowClosed = s.windowClosed ∧
    (s.runBoundary n c l).held = s.held ∧ (s.runBoundary n c l).bus = s.bus ∧
    (s.runBoundary n c l).boundary = s.boundary ∧ (s.runBoundary n c l).restartDue = s.restartDue ∧
    (s.runBoundary n c l).rout = s.rout ∧ (s.runBoundary n c l).btx = s.btx ∧
    (s.runBoundary n c l).pending = s.pending := by
  induction l generalizing s with
  | nil => simp [State.runBoundary]
  | cons w l ih =>
    unfold State.runBoundary
    have h := work_frame w s
    split <;> rename_i e <;> rw [e] at h <;> simp_all

@[simp] theorem performRestart_frame (s : State) :
    (s.performRestart).now = s.now ∧ (s.performRestart).windowClosed = s.windowClosed ∧
    (s.performRestart).held = s.held ∧ (s.performRestart).btx = s.btx ∧ (s.performRestart).pending = s.pending := by
  unfold State.performRestart
  simp

@[simp] theorem assertReset_frame (s : State) :
    (s.assertReset).now = s.now ∧ (s.assertReset).windowClosed = s.windowClosed ∧
    (s.assertReset).boxes = s.boxes ∧ (s.assertReset).active = s.active ∧ (s.assertReset).staging = s.staging ∧
    (s.assertReset).tx = s.tx ∧ (s.assertReset).engine = s.engine ∧ (s.assertReset).notices = s.notices ∧
    (s.assertReset).counters = s.counters ∧ (s.assertReset).boundary = s.boundary ∧
    (s.assertReset).restartDue = s.restartDue ∧ (s.assertReset).pending = s.pending := by
  unfold State.assertReset
  try dsimp only
  (repeat' split) <;> simp

@[simp] theorem releaseReset_frame (p : Straps) (s : State) :
    (s.releaseReset p).now = s.now ∧ (s.releaseReset p).windowClosed = s.windowClosed ∧
    (s.releaseReset p).rout = s.rout ∧ (s.releaseReset p).btx = s.btx ∧ (s.releaseReset p).pending = s.pending := by
  unfold State.releaseReset
  simp

@[simp] theorem applyPower_frame (p : Straps) (b a : Bool) (s : State) :
    (s.applyPower p b a).now = s.now ∧ (s.applyPower p b a).windowClosed = s.windowClosed ∧
    (s.applyPower p b a).rout = s.rout ∧ (s.applyPower p b a).btx = s.btx ∧
    (s.applyPower p b a).pending = s.pending := by
  unfold State.applyPower
  try dsimp only
  (repeat' split) <;> simp

@[simp] theorem finish_frame (s : State) :
    (s.finish).now = s.now ∧ (s.finish).windowClosed = s.windowClosed ∧ (s.finish).held = s.held ∧
    (s.finish).btx = s.btx ∧ (s.finish).pending = s.pending := by
  unfold State.finish
  try dsimp only
  (repeat' split) <;> simp

@[simp] theorem queueRequest_frame (b : Bool) (f : Frame) (s : State) :
    (s.queueRequest b f).now = s.now ∧ (s.queueRequest b f).windowClosed = s.windowClosed ∧
    (s.queueRequest b f).held = s.held ∧ (s.queueRequest b f).boxes = s.boxes ∧
    (s.queueRequest b f).active = s.active ∧ (s.queueRequest b f).staging = s.staging ∧
    (s.queueRequest b f).ring = s.ring ∧ (s.queueRequest b f).bus = s.bus ∧
    (s.queueRequest b f).boundary = s.boundary ∧ (s.queueRequest b f).restartDue = s.restartDue ∧
    (s.queueRequest b f).rout = s.rout ∧ (s.queueRequest b f).btx = s.btx ∧
    (s.queueRequest b f).pending = s.pending := by
  unfold State.queueRequest
  try dsimp only
  (repeat' split) <;> simp

@[simp] theorem leaveSilent_frame (s : State) :
    (s.leaveSilent).now = s.now ∧ (s.leaveSilent).windowClosed = s.windowClosed ∧
    (s.leaveSilent).held = s.held ∧ (s.leaveSilent).boxes = s.boxes ∧ (s.leaveSilent).active = s.active ∧
    (s.leaveSilent).staging = s.staging ∧ (s.leaveSilent).ring = s.ring ∧ (s.leaveSilent).engine = s.engine ∧
    (s.leaveSilent).counters = s.counters ∧ (s.leaveSilent).boundary = s.boundary ∧
    (s.leaveSilent).restartDue = s.restartDue ∧ (s.leaveSilent).rout = s.rout ∧ (s.leaveSilent).btx = s.btx ∧
    (s.leaveSilent).pending = s.pending := by
  unfold State.leaveSilent
  try dsimp only
  (repeat' split) <;> simp

@[simp] theorem countGood_frame (s : State) :
    (s.countGood).now = s.now ∧ (s.countGood).windowClosed = s.windowClosed ∧ (s.countGood).held = s.held ∧
    (s.countGood).boxes = s.boxes ∧ (s.countGood).active = s.active ∧ (s.countGood).staging = s.staging ∧
    (s.countGood).ring = s.ring ∧ (s.countGood).engine = s.engine ∧ (s.countGood).counters = s.counters ∧
    (s.countGood).boundary = s.boundary ∧ (s.countGood).restartDue = s.restartDue ∧
    (s.countGood).rout = s.rout ∧ (s.countGood).btx = s.btx ∧ (s.countGood).pending = s.pending := by
  unfold State.countGood
  try dsimp only
  (repeat' split) <;> simp

@[simp] theorem fastPath_frame (f : Frame) (s : State) :
    (s.fastPath f).now = s.now ∧ (s.fastPath f).windowClosed = s.windowClosed ∧ (s.fastPath f).held = s.held ∧
    (s.fastPath f).boxes = s.boxes ∧ (s.fastPath f).active = s.active ∧ (s.fastPath f).staging = s.staging ∧
    (s.fastPath f).ring = s.ring ∧ (s.fastPath f).engine = s.engine ∧ (s.fastPath f).counters = s.counters ∧
    (s.fastPath f).boundary = s.boundary ∧ (s.fastPath f).restartDue = s.restartDue ∧
    (s.fastPath f).rout = s.rout ∧ (s.fastPath f).btx = s.btx ∧ (s.fastPath f).pending = s.pending := by
  unfold State.fastPath
  try dsimp only
  (repeat' split) <;> simp

@[simp] theorem classify_frame (f : Frame) (s : State) :
    (s.classify f).now = s.now ∧ (s.classify f).windowClosed = s.windowClosed ∧ (s.classify f).held = s.held ∧
    (s.classify f).active = s.active ∧ (s.classify f).staging = s.staging ∧ (s.classify f).ring = s.ring ∧
    (s.classify f).boundary = s.boundary ∧ (s.classify f).restartDue = s.restartDue ∧
    (s.classify f).rout = s.rout ∧ (s.classify f).btx = s.btx ∧ (s.classify f).pending = s.pending := by
  unfold State.classify
  try dsimp only
  (repeat' split) <;> simp

@[simp] theorem acknowledge_frame (s : State) :
    (s.acknowledge).now = s.now ∧ (s.acknowledge).windowClosed = s.windowClosed ∧
    (s.acknowledge).held = s.held ∧ (s.acknowledge).boxes = s.boxes ∧ (s.acknowledge).active = s.active ∧
    (s.acknowledge).staging = s.staging ∧ (s.acknowledge).ring = s.ring ∧ (s.acknowledge).tx = s.tx ∧
    (s.acknowledge).bus = s.bus ∧ (s.acknowledge).engine = s.engine ∧ (s.acknowledge).notices = s.notices ∧
    (s.acknowledge).counters = s.counters ∧ (s.acknowledge).boundary = s.boundary ∧
    (s.acknowledge).restartDue = s.restartDue ∧ (s.acknowledge).rout = s.rout ∧
    (s.acknowledge).pending = s.pending := by
  unfold State.acknowledge
  try dsimp only
  (repeat' split) <;> simp

@[simp] theorem goodReception_frame (f : Frame) (s : State) :
    (s.goodReception f).now = s.now ∧ (s.goodReception f).windowClosed = s.windowClosed ∧
    (s.goodReception f).held = s.held ∧ (s.goodReception f).active = s.active ∧
    (s.goodReception f).staging = s.staging ∧ (s.goodReception f).ring = s.ring ∧
    (s.goodReception f).boundary = s.boundary ∧ (s.goodReception f).restartDue = s.restartDue ∧
    (s.goodReception f).rout = s.rout ∧ (s.goodReception f).pending = s.pending := by
  unfold State.goodReception
  simp

@[simp] theorem receptionError_frame (s : State) :
    (s.receptionError).now = s.now ∧ (s.receptionError).windowClosed = s.windowClosed ∧
    (s.receptionError).held = s.held ∧ (s.receptionError).boxes = s.boxes ∧
    (s.receptionError).active = s.active ∧ (s.receptionError).staging = s.staging ∧
    (s.receptionError).ring = s.ring ∧ (s.receptionError).tx = s.tx ∧ (s.receptionError).engine = s.engine ∧
    (s.receptionError).notices = s.notices ∧ (s.receptionError).boundary = s.boundary ∧
    (s.receptionError).restartDue = s.restartDue ∧ (s.receptionError).rout = s.rout ∧
    (s.receptionError).btx = s.btx ∧ (s.receptionError).pending = s.pending := by
  unfold State.receptionError
  try dsimp only
  (repeat' split) <;> simp

@[simp] theorem frameEnds_frame (r : Reception) (s : State) :
    (s.frameEnds r).now = s.now ∧ (s.frameEnds r).windowClosed = s.windowClosed ∧
    (s.frameEnds r).held = s.held ∧ (s.frameEnds r).active = s.active ∧ (s.frameEnds r).staging = s.staging ∧
    (s.frameEnds r).ring = s.ring ∧ (s.frameEnds r).boundary = s.boundary ∧
    (s.frameEnds r).restartDue = s.restartDue ∧ (s.frameEnds r).rout = s.rout ∧
    (s.frameEnds r).pending = s.pending := by
  unfold State.frameEnds
  try dsimp only
  (repeat' split) <;> simp

@[simp] theorem frameBegins_frame (s : State) :
    (s.frameBegins).now = s.now ∧ (s.frameBegins).windowClosed = s.windowClosed ∧
    (s.frameBegins).held = s.held ∧ (s.frameBegins).boxes = s.boxes ∧ (s.frameBegins).active = s.active ∧
    (s.frameBegins).staging = s.staging ∧ (s.frameBegins).ring = s.ring ∧ (s.frameBegins).tx = s.tx ∧
    (s.frameBegins).engine = s.engine ∧ (s.frameBegins).notices = s.notices ∧
    (s.frameBegins).counters = s.counters ∧ (s.frameBegins).boundary = s.boundary ∧
    (s.frameBegins).restartDue = s.restartDue ∧ (s.frameBegins).rout = s.rout ∧ (s.frameBegins).btx = s.btx ∧
    (s.frameBegins).pending = s.pending := by
  unfold State.frameBegins
  try dsimp only
  (repeat' split) <;> simp

@[simp] theorem enterSilent_frame (s : State) :
    (s.enterSilent).now = s.now ∧ (s.enterSilent).windowClosed = s.windowClosed ∧
    (s.enterSilent).held = s.held ∧ (s.enterSilent).boxes = s.boxes ∧ (s.enterSilent).active = s.active ∧
    (s.enterSilent).staging = s.staging ∧ (s.enterSilent).ring = s.ring ∧ (s.enterSilent).engine = s.engine ∧
    (s.enterSilent).boundary = s.boundary ∧ (s.enterSilent).restartDue = s.restartDue ∧
    (s.enterSilent).rout = s.rout ∧ (s.enterSilent).btx = s.btx ∧ (s.enterSilent).pending = s.pending := by
  unfold State.enterSilent
  simp

@[simp] theorem loseArbitration_frame (s : State) :
    (s.loseArbitration).now = s.now ∧ (s.loseArbitration).windowClosed = s.windowClosed ∧
    (s.loseArbitration).held = s.held ∧ (s.loseArbitration).active = s.active ∧
    (s.loseArbitration).staging = s.staging ∧ (s.loseArbitration).ring = s.ring ∧
    (s.loseArbitration).engine = s.engine ∧ (s.loseArbitration).notices = s.notices ∧
    (s.loseArbitration).boundary = s.boundary ∧ (s.loseArbitration).restartDue = s.restartDue ∧
    (s.loseArbitration).rout = s.rout ∧ (s.loseArbitration).btx = s.btx ∧
    (s.loseArbitration).pending = s.pending := by
  unfold State.loseArbitration
  try dsimp only
  (repeat' split) <;> simp

@[simp] theorem failAttempt_frame (s : State) :
    (s.failAttempt).now = s.now ∧ (s.failAttempt).windowClosed = s.windowClosed ∧
    (s.failAttempt).held = s.held ∧ (s.failAttempt).active = s.active ∧ (s.failAttempt).staging = s.staging ∧
    (s.failAttempt).ring = s.ring ∧ (s.failAttempt).engine = s.engine ∧ (s.failAttempt).boundary = s.boundary ∧
    (s.failAttempt).rout = s.rout ∧ (s.failAttempt).btx = s.btx ∧ (s.failAttempt).pending = s.pending := by
  unfold State.failAttempt
  try dsimp only
  (repeat' split) <;> simp

@[simp] theorem completeAttempt_frame (s : State) :
    (s.completeAttempt).now = s.now ∧ (s.completeAttempt).windowClosed = s.windowClosed ∧
    (s.completeAttempt).held = s.held ∧ (s.completeAttempt).active = s.active ∧
    (s.completeAttempt).staging = s.staging ∧ (s.completeAttempt).ring = s.ring ∧
    (s.completeAttempt).boundary = s.boundary ∧ (s.completeAttempt).rout = s.rout ∧
    (s.completeAttempt).btx = s.btx ∧ (s.completeAttempt).pending = s.pending := by
  unfold State.completeAttempt
  try dsimp only
  (repeat' split) <;> simp

@[simp] theorem enterLocked_frame (p : Nat) (s : State) :
    (s.enterLocked p).now = s.now ∧ (s.enterLocked p).windowClosed = s.windowClosed ∧
    (s.enterLocked p).held = s.held ∧ (s.enterLocked p).boxes = s.boxes ∧ (s.enterLocked p).active = s.active ∧
    (s.enterLocked p).staging = s.staging ∧ (s.enterLocked p).bus = s.bus ∧
    (s.enterLocked p).engine = s.engine ∧ (s.enterLocked p).counters = s.counters ∧
    (s.enterLocked p).boundary = s.boundary ∧ (s.enterLocked p).restartDue = s.restartDue ∧
    (s.enterLocked p).rout = s.rout ∧ (s.enterLocked p).btx = s.btx ∧ (s.enterLocked p).pending = s.pending := by
  unfold State.enterLocked
  try dsimp only
  (repeat' split) <;> simp

@[simp] theorem acceptMark_frame (time : Nat) (m : RoundMark) (o : BoundaryOrder) (s : State) :
    (s.acceptMark time m o).now = s.now ∧ (s.acceptMark time m o).windowClosed = s.windowClosed ∧
    (s.acceptMark time m o).held = s.held ∧ (s.acceptMark time m o).active = s.active ∧
    (s.acceptMark time m o).staging = s.staging ∧ (s.acceptMark time m o).bus = s.bus ∧
    (s.acceptMark time m o).restartDue = s.restartDue ∧ (s.acceptMark time m o).btx = s.btx ∧
    (s.acceptMark time m o).pending = s.pending := by
  unfold State.acceptMark
  try dsimp only
  (repeat' split) <;> simp

@[simp] theorem judgeMark_frame (time : Nat) (m : RoundMark) (o : BoundaryOrder) (s : State) :
    (s.judgeMark time m o).now = s.now ∧ (s.judgeMark time m o).windowClosed = s.windowClosed ∧
    (s.judgeMark time m o).held = s.held ∧ (s.judgeMark time m o).active = s.active ∧
    (s.judgeMark time m o).staging = s.staging ∧ (s.judgeMark time m o).bus = s.bus ∧
    (s.judgeMark time m o).restartDue = s.restartDue ∧ (s.judgeMark time m o).btx = s.btx ∧
    (s.judgeMark time m o).pending = s.pending := by
  unfold State.judgeMark
  try dsimp only
  (repeat' split) <;> simp

@[simp] theorem markArrives_frame (time : Nat) (m : RoundMark) (o : BoundaryOrder) (s : State) :
    (s.markArrives time m o).now = s.now ∧ (s.markArrives time m o).windowClosed = s.windowClosed ∧
    (s.markArrives time m o).held = s.held ∧ (s.markArrives time m o).active = s.active ∧
    (s.markArrives time m o).staging = s.staging ∧ (s.markArrives time m o).bus = s.bus ∧
    (s.markArrives time m o).restartDue = s.restartDue ∧ (s.markArrives time m o).btx = s.btx ∧
    (s.markArrives time m o).pending = s.pending := by
  unfold State.markArrives
  try dsimp only
  (repeat' split) <;> simp

@[simp] theorem windowCloses_frame (s : State) :
    (s.windowCloses).now = s.now ∧ (s.windowCloses).held = s.held ∧ (s.windowCloses).active = s.active ∧
    (s.windowCloses).staging = s.staging ∧ (s.windowCloses).bus = s.bus ∧ (s.windowCloses).engine = s.engine ∧
    (s.windowCloses).boundary = s.boundary ∧ (s.windowCloses).restartDue = s.restartDue ∧
    (s.windowCloses).btx = s.btx ∧ (s.windowCloses).pending = s.pending := by
  unfold State.windowCloses
  simp

@[simp] theorem dropThrough_frame (s : State) :
    (s.dropThrough).now = s.now ∧ (s.dropThrough).windowClosed = s.windowClosed ∧
    (s.dropThrough).held = s.held ∧ (s.dropThrough).boxes = s.boxes ∧ (s.dropThrough).active = s.active ∧
    (s.dropThrough).staging = s.staging ∧ (s.dropThrough).tx = s.tx ∧ (s.dropThrough).bus = s.bus ∧
    (s.dropThrough).engine = s.engine ∧ (s.dropThrough).notices = s.notices ∧
    (s.dropThrough).counters = s.counters ∧ (s.dropThrough).boundary = s.boundary ∧
    (s.dropThrough).restartDue = s.restartDue ∧ (s.dropThrough).btx = s.btx ∧
    (s.dropThrough).pending = s.pending := by
  unfold State.dropThrough
  try dsimp only
  (repeat' split) <;> simp

@[simp] theorem masterExpiry_frame (o : BoundaryOrder) (s : State) :
    (s.masterExpiry o).now = s.now ∧ (s.masterExpiry o).windowClosed = s.windowClosed ∧
    (s.masterExpiry o).held = s.held ∧ (s.masterExpiry o).active = s.active ∧
    (s.masterExpiry o).staging = s.staging ∧ (s.masterExpiry o).bus = s.bus ∧
    (s.masterExpiry o).restartDue = s.restartDue ∧ (s.masterExpiry o).btx = s.btx ∧
    (s.masterExpiry o).pending = s.pending := by
  unfold State.masterExpiry
  simp

@[simp] theorem localExpiry_frame (o : BoundaryOrder) (s : State) :
    (s.localExpiry o).now = s.now ∧ (s.localExpiry o).windowClosed = s.windowClosed ∧
    (s.localExpiry o).held = s.held ∧ (s.localExpiry o).active = s.active ∧
    (s.localExpiry o).staging = s.staging ∧ (s.localExpiry o).bus = s.bus ∧
    (s.localExpiry o).restartDue = s.restartDue ∧ (s.localExpiry o).rout = s.rout ∧
    (s.localExpiry o).btx = s.btx ∧ (s.localExpiry o).pending = s.pending := by
  unfold State.localExpiry
  simp

end Sys2Proof.Machine
end

