-- ==== Sys2Proof/Laws/Operations.lean ====
section
/-! SUPPORT. What the shared operations do: events in time, takes, placements, replies, counters and conditions. -/

namespace Sys2Proof.Machine

/-! ### Events in time -/

/-- An event in order that the part's state does not rule out has its effect on the part as it finds it. -/
theorem atTime_of_occurs {t : Nat} {occurs : State → Bool} {effect : State → State} {s : State} (h : s.inTime t)
    (ho : occurs (s.ripe t) = true) : s.atTime t occurs effect = effect (s.found t) := by
  simp only [State.inTime] at h
  simp [State.atTime, State.found, h, ho]

/-- Time moving on and a new event beginning touch the time, the ring, its line, the mailboxes it drives and the stamps. -/
@[simp] theorem found_frame (t : Nat) (s : State) :
    (s.found t).now = t ∧ (s.found t).held = (s.ripe t).held ∧ (s.found t).active = (s.ripe t).active ∧
    (s.found t).staging = (s.ripe t).staging ∧ (s.found t).bus = (s.ripe t).bus ∧
    (s.found t).engine = (s.ripe t).engine ∧ (s.found t).notices = (s.ripe t).notices ∧
    (s.found t).counters = (s.ripe t).counters ∧ (s.found t).boundary = (s.ripe t).boundary ∧
    (s.found t).restartDue = (s.ripe t).restartDue ∧ (s.found t).btx = (s.ripe t).btx ∧
    (s.found t).pending = (s.ripe t).pending := by
  simp [State.found]
  simp [State.advanceTo]

/-- As time passes the ring port's state changes in the outbound round alone. -/
theorem slotInstant_ring (o : OutRound) (s : State) :
    (s.slotInstant o).ring = { s.ring with outRound := (s.slotInstant o).ring.outRound } := by
  unfold State.slotInstant State.masterDrive State.drive
  dsimp only
  (repeat' split) <;> rfl

theorem emitSlots_ring (t n : Nat) (s : State) :
    (s.emitSlots t n).ring = { s.ring with outRound := (s.emitSlots t n).ring.outRound } := by
  induction n generalizing s with
  | zero => rfl
  | succ n ih =>
    unfold State.emitSlots
    split
    · rfl
    · split
      · rename_i o _ _
        rw [ih (s.slotInstant o), slotInstant_ring o s]
      · rfl

theorem found_ring (t : Nat) (s : State) :
    (s.found t).ring = { (s.ripe t).ring with outRound := (s.found t).ring.outRound } :=
  emitSlots_ring t 65 (s.ripe t)

/-! ### Takes -/

/-- A take by the row of the request at the head. -/
theorem take_of_takes {row : TakeRow} {act : Request → State → State} {r : Request} {rest : List Request} {s : State}
    (h : s.finish.takes row r rest) : s.take row act = act r (s.finish.dequeue rest) := by
  obtain ⟨h1, h2, h3⟩ := h
  simp [State.take, h1, h2, h3]

/-- The engine takes a node-addressed request only while a reply entry is FREE (08, R128). -/
theorem freeReply_of_canTake {r : Request} {rest : List Request} {s : State} (h : s.canTake = true)
    (hr : s.engine.requests = r :: rest) (hb : r.broadcast = false) : ∃ k, s.freeReply = some k := by
  simp only [State.canTake, hr, hb, Bool.and_eq_true] at h
  exact Option.isSome_iff_exists.mp (by simpa using h.2)

@[simp] theorem dequeue_engine (rest : List Request) (s : State) :
    (s.dequeue rest).engine = { s.engine with requests := rest } := rfl

@[simp] theorem dequeue_tx (rest : List Request) (s : State) :
    (s.dequeue rest).tx = { s.tx with epoch := s.tx.epoch + 1, placed := 0 } := rfl

@[simp] theorem dequeue_counters (rest : List Request) (s : State) :
    (s.dequeue rest).counters = (s.count Counter.requestsTaken).counters := rfl

/-! ### Placements -/

/-- An entry whose stamp is above every queued one goes to the end. -/
theorem insertEntry_above {e : Entry} {l : List Entry} (h : ∀ x ∈ l, x.stamp ≤ e.stamp) : insertEntry e l = l ++ [e] := by
  induction l with
  | nil => rfl
  | cons x l ih =>
    have hx := h x (by simp)
    simp only [insertEntry, Nat.not_lt.mpr hx, if_false, List.cons_append]
    rw [ih (fun y hy => h y (by simp [hy]))]

theorem mem_insertEntry {e x : Entry} {l : List Entry} : x ∈ insertEntry e l ↔ x = e ∨ x ∈ l := by
  induction l with
  | nil => simp [insertEntry]
  | cons y l ih =>
    simp only [insertEntry]
    split
    · simp
    · simp only [List.mem_cons, ih]
      tauto

/-- In a list in stamp order an entry goes between the earlier and the later ones (06, R103). -/
theorem insertEntry_sorted {e : Entry} {l : List Entry} (h : l.Pairwise (fun a b => a.stamp ≤ b.stamp)) :
    insertEntry e l = e.putBack l := by
  induction l with
  | nil => rfl
  | cons x l ih =>
    rw [List.pairwise_cons] at h
    simp only [insertEntry]
    split
    · rename_i hx
      have h1 : ∀ y ∈ x :: l, e.stamp < y.stamp := by
        intro y hy
        rcases List.mem_cons.mp hy with rfl | hy
        · exact hx
        · exact Nat.lt_of_lt_of_le hx (h.1 y hy)
      have h2 : (x :: l).filter (fun y => decide (e.stamp < y.stamp)) = x :: l :=
        List.filter_eq_self.mpr (fun y hy => by simpa using h1 y hy)
      have h3 : (x :: l).filter (fun y => decide (y.stamp ≤ e.stamp)) = [] :=
        List.filter_eq_nil_iff.mpr (fun y hy => by simpa using h1 y hy)
      rw [Entry.putBack, h2, h3]
      rfl
    · rename_i hx
      have hx' : x.stamp ≤ e.stamp := Nat.not_lt.mp hx
      rw [ih h.2]
      simp [Entry.putBack, hx', hx]

theorem insertEntry_pairwise {e : Entry} {l : List Entry} (h : l.Pairwise (fun a b => a.stamp ≤ b.stamp)) :
    (insertEntry e l).Pairwise (fun a b => a.stamp ≤ b.stamp) := by
  induction l with
  | nil => simp [insertEntry]
  | cons x l ih =>
    rw [List.pairwise_cons] at h
    simp only [insertEntry]
    split
    · rename_i hx
      refine List.pairwise_cons.mpr ⟨fun y hy => ?_, List.pairwise_cons.mpr h⟩
      rcases List.mem_cons.mp hy with rfl | hy
      · omega
      · have := h.1 y hy
        omega
    · rename_i hx
      refine List.pairwise_cons.mpr ⟨fun y hy => ?_, ih h.2⟩
      rcases mem_insertEntry.mp hy with rfl | hy
      · omega
      · exact h.1 y hy

theorem countP_insertEntry (p : Entry → Bool) (e : Entry) (l : List Entry) :
    (insertEntry e l).countP p = l.countP p + if p e then 1 else 0 := by
  induction l with
  | nil => simp [insertEntry, List.countP_cons]
  | cons x l ih =>
    simp only [insertEntry]
    split
    · simp [List.countP_cons]
    · simp [List.countP_cons, ih]
      omega

theorem Owner.rank_lt (o : Owner) (n : Nat) : o.rank n < 64 := by
  cases o with
  | report m g => simp only [Owner.rank]; omega
  | reply k => simp only [Owner.rank]; omega
  | notice => simp [Owner.rank]
  | discovery => simp [Owner.rank]

/-- What a placement leaves queued. -/
theorem place_queued (o : Owner) (s : State) : (s.place o).tx.queued =
    insertEntry { owner := o, stamp := s.tx.epoch * 64 + o.rank s.tx.placed, attempts := 0 } s.tx.queued := rfl

@[simp] theorem place_replies (o : Owner) (s : State) : (s.place o).tx.replies = s.tx.replies := rfl

@[simp] theorem place_epoch (o : Owner) (s : State) : (s.place o).tx.epoch = s.tx.epoch := rfl

/-- The first placement of an event stands behind everything placed before the event (06, R98). -/
theorem placedBehind_of_place {u v : State} (hq : u.queueLaw) (o : Owner) (hv : v.tx.queued = u.tx.queued)
    (he : v.tx.epoch = u.tx.epoch + 1) : u.placedBehind o (v.place o) := by
  have h : ∀ x ∈ u.tx.queued, x.stamp < v.tx.epoch * 64 + o.rank v.tx.placed := by
    intro x hx
    have := hq.1 x hx
    omega
  refine ⟨{ owner := o, stamp := v.tx.epoch * 64 + o.rank v.tx.placed, attempts := 0 }, rfl, rfl, ?_, h⟩
  rw [place_queued, hv]
  exact insertEntry_above (fun x hx => Nat.le_of_lt (h x hx))

/-! ### Reply entries -/

theorem freeReply_status {s : State} {k : Fin 4} (h : s.freeReply = some k) :
    (s.reply k).status = .free ∧ ∀ j : Fin 4, j < k → (s.reply j).status ≠ .free := by
  unfold State.freeReply at h
  rw [List.find?_eq_some_iff_append] at h
  obtain ⟨h1, l1, l2, h2, h3⟩ := h
  refine ⟨by simpa using h1, fun j hj => ?_⟩
  have hp : (List.finRange 4).Pairwise (· < ·) := List.pairwise_lt_finRange 4
  have hm : j ∈ List.finRange 4 := List.mem_finRange j
  rw [h2] at hp hm
  rcases List.mem_append.mp hm with hm | hm
  · simpa using h3 j hm
  · rw [List.pairwise_append] at hp
    rcases List.mem_cons.mp hm with rfl | hm
    · exact absurd hj (lt_irrefl _)
    · have := (List.pairwise_cons.mp hp.2.1).1 j hm
      exact absurd hj (lt_asymm this)

theorem freeReply_congr {s t : State} (h : s.tx.replies = t.tx.replies) : s.freeReply = t.freeReply := by
  unfold State.freeReply State.reply
  rw [h]

@[simp] theorem markReply_queued (k : Fin 4) (st : ReplyStatus) (s : State) :
    (s.markReply k st).tx.queued = s.tx.queued := rfl

@[simp] theorem markReply_epoch (k : Fin 4) (st : ReplyStatus) (s : State) :
    (s.markReply k st).tx.epoch = s.tx.epoch := rfl

@[simp] theorem markReply_placed (k : Fin 4) (st : ReplyStatus) (s : State) :
    (s.markReply k st).tx.placed = s.tx.placed := rfl

theorem markReply_replies (k : Fin 4) (st : ReplyStatus) (s : State) :
    (s.markReply k st).tx.replies = s.tx.replies.set k { s.reply k with status := st } := rfl

theorem placeReply_replies (k : Fin 4) (c : Reply) (s : State) :
    (s.placeReply k c).tx.replies = s.tx.replies.set k { status := .queued, content := c } := rfl

/-- A reply placed as the event's first placement (08, R129; 06, R97). -/
theorem replied_of_placeReply {u v : State} {r : Request} {k : Fin 4} {result : ResultCode} {data : List Byte}
    (hq : u.queueLaw) (hk : u.freeReply = some k) (hv : v.tx.queued = u.tx.queued) (he : v.tx.epoch = u.tx.epoch + 1)
    (hr : ∃ x, v.tx.replies = u.tx.replies.set k x) :
    u.replied r result data (v.placeReply k (r.echo result data)) := by
  obtain ⟨h1, h2⟩ := freeReply_status hk
  obtain ⟨x, hx⟩ := hr
  refine ⟨k, h1, h2, ?_, ?_⟩
  · rw [placeReply_replies, hx]
    simp [Request.echo]
  · exact placedBehind_of_place hq (.reply k) (by simpa [State.setReply] using hv) (by simpa [State.setReply] using he)

/-- A request answered within its take (08, R128, R129). -/
theorem answered_eq {h : Request → State → Answer} {r : Request} {rest : List Request} {u : State} {k : Fin 4}
    (hk : u.freeReply = some k) :
    State.answered h r (u.dequeue rest) =
      (h r ((u.dequeue rest).markReply k .reserved)).state.placeReply k
        (r.echo (h r ((u.dequeue rest).markReply k .reserved)).result
          (h r ((u.dequeue rest).markReply k .reserved)).data) := by
  have : (u.dequeue rest).freeReply = some k := by
    rw [← hk]
    exact freeReply_congr rfl
  simp [State.answered, this]

/-! ### Counters -/

theorem count_live (k j : Fin 111) (s : State) :
    (s.count k).live j = if j = k then satSucc (s.live k) else s.live j := by
  simp only [State.count, State.live, Fin.getElem_fin, Vector.getElem_set]
  by_cases h : j = k
  · subst h
    simp
  · have : k.val ≠ j.val := fun e => h (Fin.ext e.symm)
    simp [h, this]

@[simp] theorem count_live_self (k : Fin 111) (s : State) : (s.count k).live k = satSucc (s.live k) := by
  simp [count_live]

theorem count_live_other {k j : Fin 111} (h : j ≠ k) (s : State) : (s.count k).live j = s.live j := by
  simp [count_live, h]

/-! ### Mailboxes -/

theorem setBox_box (m j : Fin 32) (b : Runtime) (s : State) :
    (s.setBox m b).box j = if j = m then b else s.box j := by
  simp only [State.setBox, State.box, Fin.getElem_fin, Vector.getElem_set]
  by_cases h : j = m
  · subst h
    simp
  · have : m.val ≠ j.val := fun e => h (Fin.ext e.symm)
    simp [h, this]

@[simp] theorem setBox_box_self (m : Fin 32) (b : Runtime) (s : State) : (s.setBox m b).box m = b := by
  simp [setBox_box]

theorem setBox_box_other {m j : Fin 32} (h : j ≠ m) (b : Runtime) (s : State) : (s.setBox m b).box j = s.box j := by
  simp [setBox_box, h]

/-! ### Conditions and notices -/

theorem Condition.isIn_bit (c d : Condition) : d.isIn c.bit = decide (d = c) := by
  cases c <;> cases d <;> decide

theorem Condition.isIn_or (c : Condition) (v w : ConditionSet) : c.isIn (v ||| w) = (c.isIn v || c.isIn w) := by
  simp [Condition.isIn]

/-- An offer leaves a NOTICE entry queued, or the deferred flag set (10, R176). -/
theorem offer_notices (s : State) : s.offer.notices =
    { s.notices with deferred := s.offer.notices.deferred, repeatCount := s.offer.notices.repeatCount } := by
  unfold State.offer
  split
  · rfl
  · split <;> rfl

theorem offer_replies (s : State) : s.offer.tx.replies = s.tx.replies := by
  unfold State.offer
  split
  · rfl
  · split <;> rfl

theorem offer_epoch (s : State) : s.offer.tx.epoch = s.tx.epoch := by
  unfold State.offer
  split
  · rfl
  · split <;> rfl

@[simp] theorem latch_latched (c : Condition) (s : State) :
    (s.latch c).notices.latched = s.notices.latched ||| c.bit := by
  unfold State.latch
  split
  · rename_i h
    apply BitVec.eq_of_getLsbD_eq
    intro i hi
    simp only [BitVec.getLsbD_or, Condition.bit, BitVec.getLsbD_twoPow]
    by_cases e : c.number = i
    · subst e
      simp [Condition.isIn] at h
      simp [h]
    · simp [e]
  · dsimp only
    split
    · rw [offer_notices]
    · rfl

theorem latch_isIn (c d : Condition) (s : State) :
    d.isIn (s.latch c).notices.latched = (d.isIn s.notices.latched || decide (d = c)) := by
  rw [latch_latched, Condition.isIn_or, Condition.isIn_bit]

@[simp] theorem latch_isIn_self (c : Condition) (s : State) : c.isIn (s.latch c).notices.latched = true := by
  rw [latch_isIn]
  simp

theorem latch_notices (c : Condition) (s : State) : (s.latch c).notices =
    { s.notices with
      latched := s.notices.latched ||| c.bit
      deferred := (s.latch c).notices.deferred
      repeatCount := (s.latch c).notices.repeatCount } := by
  have h := latch_latched c s
  unfold State.latch at h ⊢
  split
  · rename_i e
    simp only [e, if_true] at h
    rw [← h]
  · rename_i e
    simp only [e] at h
    dsimp only at h ⊢
    split
    · rw [offer_notices]
    · rfl

theorem latch_replies (c : Condition) (s : State) : (s.latch c).tx.replies = s.tx.replies := by
  unfold State.latch
  split
  · rfl
  · dsimp only
    split
    · rw [offer_replies]
    · rfl

theorem latch_epoch (c : Condition) (s : State) : (s.latch c).tx.epoch = s.tx.epoch := by
  unfold State.latch
  split
  · rfl
  · dsimp only
    split
    · rw [offer_epoch]
    · rfl

end Sys2Proof.Machine
end

