-- ==== Sys2Proof/Laws/Steps.lean ====
section
/-! SUPPORT. What one step can do, said once: a property is kept by every step if it is kept by the named operations a
step is made of. -/

namespace Sys2Proof.Machine

/-- The operations a boundary is made of keep a property. -/
structure KeptByBoundary (P : State → Prop) : Prop where
  current : ∀ n s, P s → P { s with ring := { s.ring with current := n } }
  close : ∀ cause s, P s → P (s.closeBoundary cause)
  work : ∀ w s, P s → P (s.work w).1
  wait : ∀ w b s, P s → (s.work w).2 = some b.due → P { (s.work w).1 with boundary := some b }
  within : ∀ w d n s, P s → (s.work w).2 = some d → P ((s.work w).1.performDue d n)
  due : ∀ b s, P s → s.boundary = some b → P (State.performDue b.due b.number { s with boundary := none })

/-- The operations a step is made of keep a property. -/
structure Kept (P : State → Prop) : Prop extends KeptByBoundary P where
  pop : ∀ rest s, P s → P (s.popped rest)
  restart : ∀ s, P s → P s.performRestart
  begin : ∀ t s, P s → P (s.advanceTo t).newEvent
  select : ∀ s, P s → s.canSelect = true → P s.newEvent.select
  take : ∀ r rest s, P s → s.engine.requests = r :: rest → s.canTake = true → s.boundary = none →
    P (r.row.act r (s.dequeue rest))
  power : ∀ straps busy asserted t s, P s → P (State.applyPower straps busy asserted { s.assertReset with now := t })
  assertReset : ∀ s, P s → P s.assertReset
  releaseReset : ∀ straps s, P s → P (s.releaseReset straps)
  frameBegins : ∀ s, P s → s.lineFree = true → P s.frameBegins
  frameEnds : ∀ r s, P s → s.frameOnBus = true → P (s.frameEnds r)
  lose : ∀ s, P s → s.attempting = true → P s.loseArbitration
  fail : ∀ s, P s → s.attempting = true → P s.failAttempt
  complete : ∀ s, P s → s.attempting = true → P s.completeAttempt
  finished : ∀ o s, P s → s.finishing = true → P (s.endAttempt (lineAfter o))
  mark : ∀ time m order s, P s → P (s.markArrives time m order)
  window : ∀ s, P s → s.held = false → s.windowEnd.isSome = true → P s.windowCloses
  slotBegins : ∀ s, P s → P s.slotBegins
  slotEnds : ∀ b s, P s → P (s.slotEnds b)
  masterExpiry : ∀ order s, P s → s.role = .master → P (s.masterExpiry order)
  localExpiry : ∀ order s, P s → s.role = .follower → P (s.localExpiry order)

/-- When everything an event has brought about is finished, no boundary is open and no restart due. -/
theorem finish_done (s : State) : s.finish.boundary = none ∧ s.finish.restartDue = false := by
  have h1 : (match s.boundary with
      | none => s
      | some b => (State.performDue b.due b.number { s with boundary := none }).runBoundary b.number b.cause
          b.rest).boundary = none := by
    split
    · assumption
    · simp
  have h2 : ∀ x : State, x.boundary = none → (if x.restartDue then x.performRestart else x).boundary = none ∧
      (if x.restartDue then x.performRestart else x).restartDue = false := by
    intro x hx
    split
    · exact ⟨rfl, rfl⟩
    · rename_i h
      exact ⟨hx, by simpa using h⟩
  exact h2 _ h1

namespace KeptByBoundary

variable {P : State → Prop} (k : KeptByBoundary P)
include k

theorem continueBoundary (n : Byte) (cause : BoundaryCause) (order : BoundaryOrder) :
    ∀ s, P s → P (s.continueBoundary n cause order) := by
  induction order with
  | nil => exact fun s h => k.close cause s h
  | cons w rest ih =>
    intro s h
    unfold State.continueBoundary
    have h1 := k.work w s h
    split
    · rename_i s' e
      exact ih _ (by simpa [e] using h1)
    · rename_i s' d e
      have := k.wait w { number := n, cause := cause, due := d, rest := rest } s h (by simp [e])
      simpa [e] using this

theorem raiseBoundary (n : Byte) (cause : BoundaryCause) (order : BoundaryOrder) (s : State) (h : P s) :
    P (s.raiseBoundary n cause order) :=
  k.continueBoundary n cause _ _ (k.current n s h)

theorem runBoundary (n : Byte) (cause : BoundaryCause) (order : BoundaryOrder) :
    ∀ s, P s → P (s.runBoundary n cause order) := by
  induction order with
  | nil => exact fun s h => k.close cause s h
  | cons w rest ih =>
    intro s h
    unfold State.runBoundary
    split
    · rename_i s' e
      exact ih _ (by simpa [e] using k.work w s h)
    · rename_i s' d e
      exact ih _ (by simpa [e] using k.within w d n s h (by simp [e]))

theorem takeDue (b : Boundary) (s : State) (h : P s) (hb : s.boundary = some b) : P (s.takeDue b) :=
  k.continueBoundary _ _ _ _ (k.due b s h hb)

theorem namedDue (d : DueStep) (s : State) (h : P s) : P (s.namedDue d) := by
  unfold State.namedDue
  split
  · exact h
  · split
    · exact k.takeDue _ _ h (by assumption)
    · exact h

end KeptByBoundary

namespace Kept

variable {P : State → Prop} (k : Kept P)
include k

theorem finish (s : State) (h : P s) : P s.finish := by
  have h1 : P (match s.boundary with
      | none => s
      | some b => (State.performDue b.due b.number { s with boundary := none }).runBoundary b.number b.cause b.rest) := by
    split
    · exact h
    · exact k.runBoundary _ _ _ _ (k.due _ s h (by assumption))
  have h2 : ∀ x : State, P x → P (if x.restartDue then x.performRestart else x) := by
    intro x hx
    split
    · exact k.restart _ hx
    · exact hx
  exact h2 _ h1

theorem settleBy (n : Nat) : ∀ s, P s → P (s.settleBy n) := by
  induction n with
  | zero => exact fun s h => k.finish s h
  | succ n ih =>
    intro s h
    have h1 := k.finish s h
    unfold State.settleBy
    dsimp only
    split
    · exact ih _ (k.select _ h1 (by assumption))
    · split
      · rename_i hc
        refine ih _ ?_
        unfold State.takeHead
        split
        · exact h1
        · exact k.take _ _ _ h1 (by assumption) hc (finish_done s).1
      · exact h1

theorem ripe (t : Nat) (s : State) (h : P s) : P (s.ripe t) := by
  unfold State.ripe
  split
  · exact k.finish s h
  · exact k.settleBy _ s h

/-- The part as an event finds it. -/
theorem found (t : Nat) (s : State) (h : P s) : P (s.found t) := k.begin t _ (k.ripe t s h)

/-- An event in time keeps a property its effect keeps; what lets the event occur is known of the part it finds. -/
theorem atTime {t : Nat} {occurs : State → Bool} {effect : State → State} {s : State}
    (he : ∀ u v, P u → P v → v = (u.advanceTo t).newEvent → occurs u = true → P (effect v)) (h : P s) :
    P (s.atTime t occurs effect) := by
  unfold State.atTime
  have h1 := k.ripe t s h
  dsimp only
  split
  · rename_i hc
    rw [Bool.and_eq_true] at hc
    exact he _ _ h1 (k.begin t _ h1) rfl hc.2
  · exact h

theorem takeBy {row : TakeRow} {act : Request → State → State} (s : State) (ha : act = row.act) (h : P s) :
    P (s.take row act) := by
  subst ha
  have h1 := k.finish s h
  unfold State.take
  dsimp only
  split
  · exact h
  · rename_i r rest hr
    split
    · rename_i hc
      rw [Bool.and_eq_true, decide_eq_true_eq] at hc
      have := k.take r rest _ h1 hr hc.1 (finish_done s).1
      rwa [hc.2] at this
    · exact h

/-- A property the operations keep is kept by every command. -/
theorem exec {c : Instr} {s t : State} (h : P s) (he : exec c s = .next t) : P t := by
  have key : ∀ {u : State}, Machine.exec c s = .next u → P u → P t := by
    intro u hu hp
    rw [hu] at he
    cases he
    exact hp
  have ring : ∀ {w : Nat} {u v : State}, v = (u.advanceTo w).newEvent →
      v.ring = { u.ring with outRound := v.ring.outRound } := by
    rintro w u v rfl
    exact emitSlots_ring w 65 u
  cases c with
  | powerOn time straps busBusy =>
    refine key rfl ?_
    split
    · exact k.power _ _ _ _ _ (k.finish s h)
    · exact h
  | nresetAssert time => exact key rfl (k.atTime (fun u v _ hv _ _ => k.assertReset v hv) h)
  | nresetRelease time straps => exact key rfl (k.atTime (fun u v _ hv _ _ => k.releaseReset _ v hv) h)
  | frameStart time =>
    refine key rfl (k.atTime (fun u v _ hv e ho => k.frameBegins v hv ?_) h)
    subst e
    simpa [State.lineFree] using ho
  | frameArrival time reception =>
    refine key rfl (k.atTime (fun u v _ hv e ho => k.frameEnds _ v hv ?_) h)
    subst e
    simpa [State.frameOnBus] using ho
  | selection =>
    refine key rfl ?_
    split
    · exact k.select _ (k.finish s h) (by assumption)
    · exact h
  | arbitrationLost time winner =>
    refine key rfl (k.atTime (fun u v _ hv e ho => k.lose v hv ?_) h)
    subst e
    rw [Bool.and_eq_true] at ho
    simpa [State.attempting, State.inFlight] using ho.1
  | transmitError time =>
    refine key rfl (k.atTime (fun u v _ hv e ho => k.fail v hv ?_) h)
    subst e
    simpa [State.attempting, State.inFlight] using ho
  | completion time =>
    refine key rfl (k.atTime (fun u v _ hv e ho => k.complete v hv ?_) h)
    subst e
    simpa [State.attempting, State.inFlight] using ho
  | finishingFrameOutcome time outcome =>
    refine key rfl (k.atTime (fun u v _ hv e ho => k.finished _ v hv ?_) h)
    subst e
    simpa [State.finishing] using ho
  | roundMarkArrival time mark order => exact key rfl (k.atTime (fun u v _ hv _ _ => k.mark _ _ _ v hv) h)
  | windowClose =>
    refine key rfl ?_
    split
    · exact h
    · refine k.atTime (fun u v _ hv e ho => ?_) h
      rw [Bool.and_eq_true, Bool.not_eq_true', decide_eq_true_eq] at ho
      refine k.window v hv ?_ ?_
      · subst e
        simpa using ho.1
      · have : v.windowEnd = u.windowEnd := by
          unfold State.windowEnd
          rw [ring e]
        rw [this, ho.2]
        rfl
  | incomingSlotStart time => exact key rfl (k.atTime (fun u v _ hv _ _ => k.slotBegins v hv) h)
  | slotArrival time slot => exact key rfl (k.atTime (fun u v _ hv _ _ => k.slotEnds _ v hv) h)
  | roundTimerExpiry order =>
    refine key rfl ?_
    unfold State.expire
    split
    · exact h
    · refine k.atTime (fun u v _ hv e ho => ?_) h
      simp only [Bool.and_eq_true, decide_eq_true_eq] at ho
      refine k.masterExpiry order v hv ?_
      subst e
      simpa [State.role] using ho.1.2
  | localRoundTimerExpiry order =>
    refine key rfl ?_
    unfold State.expire
    split
    · exact h
    · refine k.atTime (fun u v _ hv e ho => ?_) h
      simp only [Bool.and_eq_true, decide_eq_true_eq] at ho
      refine k.localExpiry order v hv ?_
      subst e
      simpa [State.role] using ho.1.2
  | swap => exact key rfl (k.namedDue _ s h)
  | sessionExpiry => exact key rfl (k.namedDue _ s h)
  | snapshotIntervalExpiry => exact key rfl (k.namedDue _ s h)
  | noticeRepeatExpiry => exact key rfl (k.namedDue _ s h)
  | restartPerformed =>
    refine key rfl ?_
    split
    · exact k.restart s h
    · exact h
  | probe => exact key rfl (k.takeBy s rfl h)
  | discover => exact key rfl (k.takeBy s rfl h)
  | assign => exact key rfl (k.takeBy s rfl h)
  | readConfig => exact key rfl (k.takeBy s rfl h)
  | readMailboxPart0 => exact key rfl (k.takeBy s rfl h)
  | capture => exact key rfl (k.takeBy s rfl h)
  | readMailboxPart2 => exact key rfl (k.takeBy s rfl h)
  | readCounters => exact key rfl (k.takeBy s rfl h)
  | resumeBus => exact key rfl (k.takeBy s rfl h)
  | restart => exact key rfl (k.takeBy s rfl h)
  | openEdit => exact key rfl (k.takeBy s rfl h)
  | closeEdit => exact key rfl (k.takeBy s rfl h)
  | setMatch => exact key rfl (k.takeBy s rfl h)
  | setTiming => exact key rfl (k.takeBy s rfl h)
  | setSlot => exact key rfl (k.takeBy s rfl h)
  | setProfile => exact key rfl (k.takeBy s rfl h)
  | commit => exact key rfl (k.takeBy s rfl h)
  | cancel => exact key rfl (k.takeBy s rfl h)
  | snapshot => exact key rfl (k.takeBy s rfl h)
  | readNotices => exact key rfl (k.takeBy s rfl h)
  | ackNotices => exact key rfl (k.takeBy s rfl h)
  | setNoticeEnable => exact key rfl (k.takeBy s rfl h)
  | readAttention => exact key rfl (k.takeBy s rfl h)
  | unknownRequest => exact key rfl (k.takeBy s rfl h)
  | broadcastDiscard => exact key rfl (k.takeBy s rfl h)

/-- A property the operations keep is kept by every step. -/
theorem step {s t : State} (h : P s) (he : step s = .next t) : P t := by
  unfold Machine.step at he
  split at he
  · cases he
    exact h
  · exact k.exec (k.pop _ s h) he

end Kept

end Sys2Proof.Machine
end

