-- ==== Sys2Proof/Laws/Takes.lean ====
section
/-! SUPPORT. What every take leaves as it was, and what the row of a request says of it. -/

namespace Sys2Proof.Machine

/-- A node-addressed row takes no broadcast request (08, R130). -/
theorem node_of_row {r : Request} {row : TakeRow} (h : r.row = row) (h1 : row ≠ .discover) (h2 : row ≠ .assign)
    (h3 : row ≠ .snapshot) (h4 : row ≠ .broadcastDiscard) : r.broadcast = false := by
  cases hb : r.broadcast with
  | false => rfl
  | true =>
    simp only [Request.row, hb, if_true, broadcastRow] at h
    split at h
    · split at h <;> simp_all
    · split at h <;> simp_all
    · simp_all
    · simp_all

/-- A row that takes only node-addressed requests finds a FREE reply entry (08, R128). -/
theorem free_of_takes {row : TakeRow} {r : Request} {rest : List Request} {u : State} (h : u.takes row r rest)
    (h1 : row ≠ .discover) (h2 : row ≠ .assign) (h3 : row ≠ .snapshot) (h4 : row ≠ .broadcastDiscard) :
    ∃ k, u.freeReply = some k :=
  freeReply_of_canTake h.2.2 h.1 (node_of_row h.2.1 h1 h2 h3 h4)

/-- A field that reply entries and placements leave alone is left alone by a take whose answer leaves it alone. -/
theorem answered_keeps {β : Type} {f : State → β} {h : Request → State → Answer} {r : Request}
    (hp : ∀ k c (s : State), f (s.placeReply k c) = f s) (hm : ∀ k st (s : State), f (s.markReply k st) = f s)
    (ha : ∀ s, f (h r s).state = f s) (s : State) : f (State.answered h r s) = f s := by
  unfold State.answered
  split
  · rfl
  · rw [hp, ha, hm]

/-- What a request's answer touches: reply entries, staging, engine, notices, counters and the queue alone. -/
structure Answer.plain (a : Answer) (s : State) : Prop where
  now : a.state.now = s.now
  held : a.state.held = s.held
  boxes : a.state.boxes = s.boxes
  active : a.state.active = s.active
  ring : a.state.ring = s.ring
  bus : a.state.bus = s.bus
  boundary : a.state.boundary = s.boundary
  restartDue : a.state.restartDue = s.restartDue
  rout : a.state.rout = s.rout
  btx : a.state.btx = s.btx
  pending : a.state.pending = s.pending

theorem plain_probe (r : Request) (s : State) : (answerProbe r s).plain s := by
  constructor <;> rfl

theorem plain_readConfig (r : Request) (s : State) : (answerReadConfig r s).plain s := by
  unfold answerReadConfig State.refuse State.okay
  dsimp only
  constructor <;> (repeat' split) <;> rfl

theorem plain_readMailboxPart0 (r : Request) (s : State) : (answerReadMailboxPart0 r s).plain s := by
  unfold answerReadMailboxPart0 State.refuse State.okay
  dsimp only
  constructor <;> (repeat' split) <;> rfl

theorem plain_capture (r : Request) (s : State) : (answerCapture r s).plain s := by
  unfold answerCapture State.refuse State.okay
  dsimp only
  constructor <;> (repeat' split) <;> rfl

theorem plain_readMailboxPart2 (r : Request) (s : State) : (answerReadMailboxPart2 r s).plain s := by
  unfold answerReadMailboxPart2 State.refuse State.okay
  dsimp only
  constructor <;> (repeat' split) <;> rfl

theorem plain_readCounters (r : Request) (s : State) : (answerReadCounters r s).plain s := by
  unfold answerReadCounters State.refuse State.okay
  dsimp only
  constructor <;> (repeat' split) <;> rfl

theorem plain_resumeBus (r : Request) (s : State) : (answerResumeBus r s).plain s := by
  constructor <;> rfl

theorem plain_unknown (r : Request) (s : State) : (answerUnknown r s).plain s := by
  constructor <;> rfl

theorem plain_openEdit (r : Request) (s : State) : (answerOpenEdit r s).plain s := by
  unfold answerOpenEdit State.refuse State.okay
  dsimp only
  constructor <;> (repeat' split) <;> rfl

/-- An edit-class request whose own action is plain. -/
theorem plain_edit {body : Request → State → Answer} (hb : ∀ r s, (body r s).plain s) (n : Nat) (r : Request) (s : State) :
    (State.edit n body r s).plain s := by
  obtain ⟨h1, h2, h3, h4, h5, h6, h7, h8, h9, h10, h11⟩ := hb r s.clearIdle
  unfold State.edit State.refuse
  dsimp only
  constructor <;> (repeat' split) <;> first | rfl | assumption

theorem plain_closeEdit (r : Request) (s : State) : (bodyCloseEdit r s).plain s := by
  constructor <;> rfl

theorem plain_setMatch (r : Request) (s : State) : (bodySetMatch r s).plain s := by
  unfold bodySetMatch State.refuse State.okay
  dsimp only
  constructor <;> (repeat' split) <;> rfl

theorem plain_setTiming (r : Request) (s : State) : (bodySetTiming r s).plain s := by
  unfold bodySetTiming State.refuse State.okay
  dsimp only
  constructor <;> (repeat' split) <;> rfl

theorem plain_setSlot (r : Request) (s : State) : (bodySetSlot r s).plain s := by
  unfold bodySetSlot State.refuse State.okay
  constructor <;> (repeat' split) <;> rfl

theorem plain_setProfile (r : Request) (s : State) : (bodySetProfile r s).plain s := by
  unfold bodySetProfile State.refuse State.okay
  dsimp only
  constructor <;> (repeat' split) <;> rfl

theorem plain_cancel (r : Request) (s : State) : (answerCancel r s).plain s := by
  unfold answerCancel State.refuse State.okay
  dsimp only
  constructor <;> (repeat' split) <;> rfl

theorem plain_snapshot (r : Request) (s : State) : (answerSnapshot r s).plain s := by
  constructor <;> simp [answerSnapshot, State.okay]

theorem plain_readNotices (r : Request) (s : State) : (answerReadNotices r s).plain s := by
  constructor <;> rfl

theorem plain_ackNotices (r : Request) (s : State) : (answerAckNotices r s).plain s := by
  unfold answerAckNotices State.refuse State.okay
  dsimp only
  constructor <;> (repeat' split) <;> rfl

theorem plain_setNoticeEnable (r : Request) (s : State) : (answerSetNoticeEnable r s).plain s := by
  unfold answerSetNoticeEnable State.refuse State.okay
  dsimp only
  constructor <;> (repeat' split) <;> simp

theorem plain_readAttention (r : Request) (s : State) : (answerReadAttention r s).plain s := by
  constructor <;> rfl

/-- A plain answer leaves its take's state plain as well. -/
theorem answered_plain {h : Request → State → Answer} (ha : ∀ r s, (h r s).plain s) (r : Request) (s : State) :
    (State.answered h r s).now = s.now ∧ (State.answered h r s).held = s.held ∧
    (State.answered h r s).boxes = s.boxes ∧ (State.answered h r s).active = s.active ∧
    (State.answered h r s).ring = s.ring ∧ (State.answered h r s).bus = s.bus ∧
    (State.answered h r s).boundary = s.boundary ∧ (State.answered h r s).restartDue = s.restartDue ∧
    (State.answered h r s).rout = s.rout ∧ (State.answered h r s).btx = s.btx ∧
    (State.answered h r s).pending = s.pending :=
  ⟨answered_keeps (f := State.now) (fun _ _ _ => rfl) (fun _ _ _ => rfl) (fun s => (ha r s).now) s,
    answered_keeps (f := State.held) (fun _ _ _ => rfl) (fun _ _ _ => rfl) (fun s => (ha r s).held) s,
    answered_keeps (f := State.boxes) (fun _ _ _ => rfl) (fun _ _ _ => rfl) (fun s => (ha r s).boxes) s,
    answered_keeps (f := State.active) (fun _ _ _ => rfl) (fun _ _ _ => rfl) (fun s => (ha r s).active) s,
    answered_keeps (f := State.ring) (fun _ _ _ => rfl) (fun _ _ _ => rfl) (fun s => (ha r s).ring) s,
    answered_keeps (f := State.bus) (fun _ _ _ => rfl) (fun _ _ _ => rfl) (fun s => (ha r s).bus) s,
    answered_keeps (f := State.boundary) (fun _ _ _ => rfl) (fun _ _ _ => rfl) (fun s => (ha r s).boundary) s,
    answered_keeps (f := State.restartDue) (fun _ _ _ => rfl) (fun _ _ _ => rfl) (fun s => (ha r s).restartDue) s,
    answered_keeps (f := State.rout) (fun _ _ _ => rfl) (fun _ _ _ => rfl) (fun s => (ha r s).rout) s,
    answered_keeps (f := State.btx) (fun _ _ _ => rfl) (fun _ _ _ => rfl) (fun s => (ha r s).btx) s,
    answered_keeps (f := State.pending) (fun _ _ _ => rfl) (fun _ _ _ => rfl) (fun s => (ha r s).pending) s⟩

/-- What no take touches. -/
theorem act_plain (row : TakeRow) (r : Request) (s : State) :
    (row.act r s).now = s.now ∧ (row.act r s).held = s.held ∧ (row.act r s).boxes = s.boxes ∧
    (row.act r s).active = s.active ∧ (row.act r s).ring = s.ring ∧ (row.act r s).bus = s.bus ∧
    (row.act r s).boundary = s.boundary ∧ (row.act r s).rout = s.rout ∧ (row.act r s).btx = s.btx ∧
    (row.act r s).pending = s.pending := by
  have key : ∀ h : Request → State → Answer, (∀ r s, (h r s).plain s) →
      (State.answered h r s).now = s.now ∧ (State.answered h r s).held = s.held ∧
      (State.answered h r s).boxes = s.boxes ∧ (State.answered h r s).active = s.active ∧
      (State.answered h r s).ring = s.ring ∧ (State.answered h r s).bus = s.bus ∧
      (State.answered h r s).boundary = s.boundary ∧ (State.answered h r s).rout = s.rout ∧
      (State.answered h r s).btx = s.btx ∧ (State.answered h r s).pending = s.pending := by
    intro h ha
    obtain ⟨h1, h2, h3, h4, h5, h6, h7, h8, h9, h10, h11⟩ := answered_plain ha r s
    exact ⟨h1, h2, h3, h4, h5, h6, h7, h9, h10, h11⟩
  cases row with
  | probe => exact key _ plain_probe
  | discover =>
    unfold TakeRow.act actDiscover
    dsimp only
    (repeat' split) <;> simp
  | assign =>
    unfold TakeRow.act actAssign State.placeFreeReply
    dsimp only
    (repeat' split) <;> simp
  | readConfig => exact key _ plain_readConfig
  | readMailboxPart0 => exact key _ plain_readMailboxPart0
  | capture => exact key _ plain_capture
  | readMailboxPart2 => exact key _ plain_readMailboxPart2
  | readCounters => exact key _ plain_readCounters
  | resumeBus => exact key _ plain_resumeBus
  | restart =>
    unfold TakeRow.act actRestart
    dsimp only
    (repeat' split) <;> simp
  | openEdit => exact key _ plain_openEdit
  | closeEdit => exact key _ (plain_edit plain_closeEdit 2)
  | setMatch => exact key _ (plain_edit plain_setMatch 8)
  | setTiming => exact key _ (plain_edit plain_setTiming 7)
  | setSlot => exact key _ (plain_edit plain_setSlot 5)
  | setProfile => exact key _ (plain_edit plain_setProfile 5)
  | commit =>
    unfold TakeRow.act actCommit
    dsimp only
    (repeat' split) <;> simp
  | cancel => exact key _ plain_cancel
  | snapshot =>
    unfold TakeRow.act actSnapshot
    dsimp only
    split
    · simp
    · exact key _ plain_snapshot
  | readNotices => exact key _ plain_readNotices
  | ackNotices => exact key _ plain_ackNotices
  | setNoticeEnable => exact key _ plain_setNoticeEnable
  | readAttention => exact key _ plain_readAttention
  | unknownRequest => exact key _ plain_unknown
  | broadcastDiscard =>
    unfold TakeRow.act actBroadcastDiscard
    simp

end Sys2Proof.Machine
end

