-- ==== Sys2Proof/Laws/Engine.lean ====
section
/-! SUPPORT. What the operations leave of the management engine, and what commit validation says of an image. -/

namespace Sys2Proof.Machine

/-- The minimum round period the statements spell is the model's (03, R40). -/
theorem SlotCount.leastPeriod_eq (c : SlotCount) : c.leastPeriod = c.minPeriod := by
  cases c <;> rfl

/-! ### Operations that touch the read hold alone -/

theorem touchHold_engine (m : Fin 32) (a : Bool) (s : State) :
    (s.touchHold m a).engine = { s.engine with hold := (s.touchHold m a).engine.hold } := by
  unfold State.touchHold
  split <;> rfl

theorem store_engine (f : Frame) (m : Fin 32) (s : State) :
    (s.store f m).engine = { s.engine with hold := (s.store f m).engine.hold } := by
  unfold State.store
  dsimp only
  split
  · simp only [markAttention_frame, count_engine]
    exact touchHold_engine _ _ _
  · simp only [count_engine]
    exact touchHold_engine _ _ _

theorem walk_engine (f : Frame) (l : List (Fin 32)) (s : State) :
    (s.walk f l).engine = { s.engine with hold := (s.walk f l).engine.hold } := by
  induction l generalizing s with
  | nil => rfl
  | cons m l ih =>
    unfold State.walk
    split
    · split
      · rw [ih, store_engine]
      · rw [store_engine]
    · exact ih s

theorem slotArrives_engine (m : Fin 32) (b : SlotBytes) (s : State) :
    (s.slotArrives m b).engine = { s.engine with hold := (s.slotArrives m b).engine.hold } := by
  unfold State.slotArrives
  simp only [testChange_frame]
  exact touchHold_engine _ _ _

theorem readSlot_engine (r : InRound) (b : SlotBytes) (s : State) :
    (s.readSlot r b).engine = { s.engine with hold := (s.readSlot r b).engine.hold } := by
  unfold State.readSlot
  split
  · split
    · exact slotArrives_engine _ _ _
    · simp
  · rfl

theorem slotEnds_engine (b : SlotBytes) (s : State) :
    (s.slotEnds b).engine = { s.engine with hold := (s.slotEnds b).engine.hold } := by
  unfold State.slotEnds
  split
  · rfl
  · split
    · dsimp only
      rw [readSlot_engine]
      simp
    · rfl

theorem selfFeed_engine (e : Entry) (f : Frame) (s : State) :
    (s.selfFeed e f).engine = { s.engine with hold := (s.selfFeed e f).engine.hold } := by
  unfold State.selfFeed
  split
  · split
    · exact walk_engine _ _ _
    · rfl
  all_goals rfl

theorem completeAttempt_engine (s : State) :
    s.completeAttempt.engine = { s.engine with hold := s.completeAttempt.engine.hold } := by
  unfold State.completeAttempt
  split
  · dsimp only
    rw [selfFeed_engine]
    simp
  · rfl
  · rfl

theorem frameEnds_engine (r : Reception) (s : State) : (s.frameEnds r).engine =
    { s.engine with requests := (s.frameEnds r).engine.requests, hold := (s.frameEnds r).engine.hold } := by
  have queue : ∀ (b : Bool) (f : Frame) (u : State),
      (u.queueRequest b f).engine = { u.engine with requests := (u.queueRequest b f).engine.requests } := by
    intro b f u
    unfold State.queueRequest
    split
    · rfl
    · split
      · simp
      · rfl
  unfold State.frameEnds
  split
  · rfl
  · dsimp only
    split
    · unfold State.goodReception State.classify
      split
      · unfold State.offerToMatch
        rw [walk_engine]
        simp
      · split
        · rw [queue]
          simp
        · split
          · rw [queue]
            simp
          · simp
    · simp

/-! ### The work of a boundary and the swap -/

theorem work_engine (w : BoundaryWork) (s : State) :
    (s.work w).1.engine = { s.engine with idle := (s.work w).1.engine.idle } := by
  cases w with
  | feedAgeing =>
    simp only [State.work]
    generalize allBoxes = l
    have h := foldl_keeps (g := fun s m => State.ageFeed m s) (f := State.engine) (fun s x => by simp) l s
    rw [h]
  | reportAgeing =>
    simp only [State.work]
    generalize allBoxes = l
    have h := foldl_keeps (g := fun s m => State.ageReport m s) (f := State.engine) (fun s x => by simp) l s
    rw [h]
  | session =>
    show s.sessionWork.1.engine = { s.engine with idle := s.sessionWork.1.engine.idle }
    unfold State.sessionWork
    split
    · rfl
    · split <;> rfl
  | snapshotCount =>
    show s.snapshotWork.1.engine = { s.engine with idle := s.snapshotWork.1.engine.idle }
    simp
  | noticeRepeat =>
    show s.repeatWork.1.engine = { s.engine with idle := s.repeatWork.1.engine.idle }
    simp

/-- A session expires only while no commit is pending (09, R159). -/
theorem work_sessionExpiry {w : BoundaryWork} {s : State} (h : (s.work w).2 = some .sessionExpiry) :
    s.engine.commit = none := by
  cases w with
  | feedAgeing => simp [State.work] at h
  | reportAgeing => simp [State.work] at h
  | session =>
    have h : s.sessionWork.2 = some .sessionExpiry := h
    unfold State.sessionWork at h
    split at h
    · simp at h
    · assumption
  | snapshotCount =>
    have h : s.snapshotWork.2 = some .sessionExpiry := h
    unfold State.snapshotWork at h
    split at h
    · simp at h
    · dsimp only at h
      split at h <;> simp at h
  | noticeRepeat =>
    have h : s.repeatWork.2 = some .sessionExpiry := h
    unfold State.repeatWork at h
    dsimp only at h
    split at h <;> simp at h

theorem resetChanged_engine (m : Fin 32) (s : State) :
    (s.resetChanged m).engine = { s.engine with hold := (s.resetChanged m).engine.hold } := by
  unfold State.resetChanged
  dsimp only
  split <;> simp

theorem resetAllChanged_engine (old new : Image) (s : State) :
    (s.resetAllChanged old new).engine = { s.engine with hold := (s.resetAllChanged old new).engine.hold } := by
  unfold State.resetAllChanged
  generalize allBoxes = l
  induction l generalizing s with
  | nil => rfl
  | cons m l ih =>
    simp only [List.foldl_cons]
    rw [ih]
    split
    · rw [resetChanged_engine]
    · rfl

/-- The swap closes the session and keeps its tag (09, R167). -/
theorem swapCommit_engine (c : PendingCommit) (n : Byte) (s : State) : (s.swapCommit c n).engine =
    { s.engine with
      hold := (s.swapCommit c n).engine.hold
      owner := none
      idle := 0
      lastCommit := some c.tag
      commit := none } := by
  unfold State.swapCommit
  have h := resetAllChanged_engine s.active s.staging { s with active := s.staging }
  simp only [changeRole_frame, latch_frame, placeReply_engine, State.closeSession, profileCounts_frame]
  rw [h]

/-- The swap installs the staging image (09, R167). -/
theorem swapCommit_images (c : PendingCommit) (n : Byte) (s : State) :
    (s.swapCommit c n).staging = s.staging ∧ (s.swapCommit c n).active = s.staging ∧
      (s.swapCommit c n).boundary = s.boundary := by
  unfold State.swapCommit
  simp [State.closeSession]

/-! ### Validation -/

theorem Image.slot_fin (i : Image) (n : Fin 64) : i.slot n.val = i.slots[n] := by
  simp [Image.slot]

/-- An image that fails no check of commit validation is lawful (09, R164; 03, R42). -/
theorem Image.lawful_of_failure {i : Image} (h : i.failure = none) : i.lawful := by
  unfold Image.failure at h
  split at h
  · simp at h
  rename_i h1
  split at h
  · simp at h
  rename_i h2
  split at h
  · simp at h
  rename_i h3
  split at h
  · simp at h
  rename_i h4
  rw [List.find?_eq_none] at h1 h2 h3
  have mem : ∀ n : Fin 64, n.val ∈ allSlots := fun n => by simp [allSlots]
  refine ⟨fun n hn => ?_, fun n hn => ?_, fun n k hnk hn hk he => ?_, fun m hm => ?_, fun hm => ?_⟩
  · have h := h1 _ (mem n)
    unfold Image.wrongKind at h
    have e := (congrArg SlotEntry.role (Image.slot_fin i n)).trans hn
    rw [e] at h
    simpa [Image.slot_fin] using h
  · have h := h1 _ (mem n)
    unfold Image.wrongKind at h
    have e := (congrArg SlotEntry.role (Image.slot_fin i n)).trans hn
    rw [e] at h
    simpa [Image.slot_fin] using h
  · have h := h2 _ (mem k)
    unfold Image.namedBefore Image.binds at h
    rw [Image.slot_fin] at h
    apply h
    rw [Bool.and_eq_true, List.any_eq_true]
    refine ⟨by simpa using hk, n.val, by simpa using hnk, ?_⟩
    rw [Image.slot_fin, Bool.and_eq_true]
    exact ⟨by simpa using hn, by simpa using he⟩
  · have h := h3 m (by simp [allBoxes])
    unfold Image.highIdentifier at h
    rw [Bool.and_eq_true, decide_eq_true_eq, decide_eq_true_eq] at h
    exact BitVec.not_lt.mp (fun hl => h ⟨hm, hl⟩)
  · unfold Image.shortPeriod at h4
    rw [hm] at h4
    simpa [SlotCount.leastPeriod_eq] using h4

end Sys2Proof.Machine
end

