-- ==== Sys2Proof/Laws/Rounds.lean ====
section
/-! SUPPORT. Marks, slots, the cuts of a round, and the course of a boundary (03, R37, R38, R52, R55; 04, R65, R70). -/

namespace Sys2Proof.Machine

/-! ### Marks and slots -/

theorem markSlots_isSome (m : RoundMark) :
    (markSlots m).isSome = true ↔ (m.count = 8 ∨ m.count = 16 ∨ m.count = 32 ∨ m.count = 64) := by
  have h : ∀ c : BitVec 8, (SlotCount.ofNumber c.toNat).isSome = true ↔ (c = 8 ∨ c = 16 ∨ c = 32 ∨ c = 64) := by decide
  simpa only [markSlots, Option.isSome_map] using h m.count

theorem markGood_iff (m : RoundMark) : markGood m = true ↔ GoodMark m := by
  simp only [markGood, GoodMark, Bool.and_eq_true, markSlots_isSome, beq_iff_eq, markCheck, and_assoc]

/-- The slot count of a good mark is the number it carries. -/
theorem markSlots_of_good {m : RoundMark} (h : GoodMark m) : (markSlots m).getD 0 = m.count.toNat := by
  obtain ⟨-, -, h⟩ := h
  rcases h with h | h | h | h <;> simp [markSlots, h, SlotCount.ofNumber, SlotCount.toNat]

theorem slotGood_iff (b : SlotBytes) : slotGood b = true ↔ GoodSlot b := by
  have h (i : Fin 8) : (i.val < slotLength b ∨ b.data[i] = 0) ↔ (slotLength b ≤ i.val → b.data[i] = 0) := by
    rw [← Nat.not_lt]
    tauto
  simp only [slotGood, Bool.and_eq_true, beq_iff_eq, decide_eq_true_eq, List.all_eq_true, List.mem_finRange, true_implies,
    Bool.or_eq_true, and_assoc, h]
  rfl

/-- The slot a drive builds. -/
theorem drivenSlot_builds (u : State) (m : Fin 32) : u.builds m (u.drivenSlot m) := ⟨rfl, rfl, rfl⟩

/-- A drive leaves the mailbox as R26 says, and nothing else. -/
theorem drive_eq (m : Fin 32) (s : State) : s.drive m = { s with boxes := s.boxes.set m (s.box m).driven } := by
  unfold State.drive Runtime.driven
  split
  · rfl
  · simp [State.box]

/-! ### Cuts -/

/-- What a reset makes of the rounds in progress (03, R55). -/
theorem cutInbound_cutOutbound (s : State) :
    s.cutInbound.cutOutbound = { s with ring := { s.ring with inRound := none, outRound := none }, rout := s.routCut } := by
  obtain ⟨now, wc, held, boxes, active, staging, ring, tx, bus, engine, notices, counters, boundary, due, rout, btx, pending⟩ := s
  obtain ⟨lock, reference, period, expected, number, misses, timer, current, emitted, inRound, outRound⟩ := ring
  unfold State.cutInbound State.cutOutbound State.routCut State.emitRing
  cases inRound with
  | none =>
    cases outRound with
    | none => simp
    | some o => cases h : o.sending <;> simp [h]
  | some r =>
    by_cases h : r.started = true ∧ r.use ≠ .returned
    · cases outRound with
      | none => simp [h]
      | some o => cases h' : o.sending <;> simp [h, h']
    · cases outRound with
      | none => simp [h]
      | some o => cases h'' : o.sending <;> simp [h, h'']

/-- What a mark or a window close makes of the accepted round (04, R65). -/
theorem truncate_eq (s : State) : s.truncate = s.roundCut := by
  unfold State.truncate State.roundCut State.cutInbound State.readsSlot State.badSlot State.emitRing
  rcases hr : s.ring.inRound with _ | r
  · rfl
  · dsimp only
    by_cases h : r.started = true <;> by_cases h' : r.use = .returned <;> by_cases h'' : r.use = .passThrough <;>
      by_cases h3 : (s.active.slot r.arrived).role = .listen <;> simp [h, h', h'', h3] <;> rfl

/-! ### The course of a boundary -/

/-- A running timer is re-armed with the period in force (04, R57). -/
theorem rearm_eq (s : State) : s.rearm = { s with ring := { s.ring with
    timer := if s.ring.timer = none then none
      else some { period := s.active.profile.roundPeriod, next := s.now + 16 * s.active.profile.roundPeriod } } } := by
  obtain ⟨now, wc, held, boxes, active, staging, ring, tx, bus, engine, notices, counters, boundary, due, rout, btx, pending⟩ := s
  obtain ⟨lock, reference, period, expected, number, misses, timer, current, emitted, inRound, outRound⟩ := ring
  unfold State.rearm State.startTimer
  cases timer <;> rfl

/-- The end of a boundary (03, R45; 04, R57). -/
theorem closeBoundary_ends (cause : BoundaryCause) (v : State) : State.boundaryEnds cause v (v.closeBoundary cause) := by
  unfold State.boundaryEnds State.closeBoundary
  cases cause with
  | acceptedMark => rfl
  | localTimer => exact rearm_eq v
  | masterTimer =>
    dsimp only
    have h : v.rearm.role = v.role := by rw [rearm_eq]; rfl
    rw [h]
    cases v.role with
    | follower => exact rearm_eq v
    | master =>
      dsimp only
      unfold State.emitRound
      rw [rearm_eq]
      simp [markOf, markCheck, Config.emittedRoom]

/-- A boundary takes its works one after another (04, R70). -/
theorem continueBoundary_runs (n : Byte) (cause : BoundaryCause) (l : BoundaryOrder) (v : State) :
    State.boundaryRuns n cause l v (v.continueBoundary n cause l) := by
  induction l generalizing v with
  | nil => exact closeBoundary_ends cause v
  | cons w l ih =>
    unfold State.boundaryRuns State.continueBoundary
    rcases h : v.work w with ⟨x, d⟩
    cases d with
    | none => exact ⟨fun _ => ih x, fun d h => by simp at h⟩
    | some d =>
      refine ⟨fun h => by simp at h, fun d' h => ?_⟩
      simp at h
      subst h
      rfl

/-! ### The order of the works -/

/-- The works an order names, each at its first place. -/
theorem named_nodup (o acc : BoundaryOrder) (h : acc.Nodup) :
    (o.foldl (fun acc w => if acc.contains w then acc else acc ++ [w]) acc).Nodup := by
  induction o generalizing acc with
  | nil => exact h
  | cons w o ih =>
    refine ih _ ?_
    dsimp only
    split
    · exact h
    · rename_i hw
      refine List.nodup_append.mpr ⟨h, List.nodup_singleton w, fun a ha b hb => ?_⟩
      rw [List.mem_singleton] at hb
      rintro rfl
      exact hw (by simpa [hb] using ha)

/-- An order completed names every work once (log 23). -/
theorem complete_perm_standard (o : BoundaryOrder) : o.complete.Perm BoundaryOrder.standard := by
  have hs : BoundaryOrder.standard.Nodup := by decide
  have hm : ∀ w, w ∈ BoundaryOrder.standard := by
    intro w
    cases w <;> decide
  unfold BoundaryOrder.complete
  split
  · rename_i h
    simp only [BoundaryOrder.wf, Bool.and_eq_true, beq_iff_eq, List.all_eq_true, List.contains_iff_mem] at h
    exact ((hs.subperm h.2).perm_of_length_le (by rw [h.1]; decide)).symm
  · dsimp only
    have hn := named_nodup o [] List.nodup_nil
    generalize o.foldl _ [] = named at hn
    refine (List.perm_ext_iff_of_nodup (List.nodup_append.mpr ⟨hn, hs.filter _, ?_⟩) hs).mpr fun w => ?_
    · intro a ha b hb e
      subst e
      simp [ha] at hb
    · simp only [List.mem_append, List.mem_filter, hm, true_and, iff_true]
      by_cases h : w ∈ named <;> simp [h]

/-- An order that names every work once is complete. -/
theorem complete_of_perm {o : BoundaryOrder} (h : o.Perm BoundaryOrder.standard) : o.complete = o := by
  unfold BoundaryOrder.complete
  rw [if_pos]
  simp only [BoundaryOrder.wf, Bool.and_eq_true, beq_iff_eq, List.all_eq_true, List.contains_iff_mem]
  exact ⟨h.length_eq, fun w hw => h.mem_iff.mpr hw⟩

end Sys2Proof.Machine
end

