-- ==== Sys2Proof/Laws/Master.lean ====
section
/-! SUPPORT. The round a master sends, instant by instant as time moves on (02, R26; 03, R40, R45; log 7). -/

namespace Sys2Proof.Machine

/-- What goes out on ROUT when the instant after it has come: the mark, or the slot under way, whole. -/
abbrev OutRound.leaving (o : OutRound) : RingEmission :=
  match o.sending with
  | none => .mark o.mark
  | some b => .slot (o.next - 1) b

theorem OutRound.dueBy_iff (o : OutRound) (t : Nat) :
    o.dueBy t = true ↔ 25 * o.start + 256 * (4 + 10 * o.next) ≤ 25 * t := by
  simp [OutRound.dueBy]

theorem masterDrive_eq (n : Nat) (s : State) :
    s.masterDrive n = { s with
      boxes := if (s.active.slot n).role = .drive then
        s.boxes.set (s.active.slot n).mailbox (s.box (s.active.slot n).mailbox).driven else s.boxes } := by
  unfold State.masterDrive
  cases (s.active.slot n).role
  · simp
  · simp
  · simp only [drive_eq, if_true]

/-- The slot a master sends: built from its mailbox at a DRIVE entry, VOID at any other. -/
theorem masterSlot_builds (s : State) (n : Nat) :
    ((s.active.slot n).role = .drive → s.builds (s.active.slot n).mailbox (s.masterSlot n)) ∧
      ((s.active.slot n).role ≠ .drive → s.masterSlot n = voidSlot) := by
  unfold State.masterSlot
  cases (s.active.slot n).role
  · exact ⟨fun h => absurd h (by decide), fun _ => rfl⟩
  · exact ⟨fun h => absurd h (by decide), fun _ => rfl⟩
  · exact ⟨fun _ => drivenSlot_builds _ _, fun h => absurd rfl h⟩

/-- An instant at which a slot begins. -/
theorem slotInstant_more (o : OutRound) (s : State) (h : o.next < o.slots) :
    s.slotInstant o = { s with
      rout := s.rout ++ [o.leaving]
      ring := { s.ring with outRound := some { o with next := o.next + 1, sending := some (s.masterSlot o.next) } }
      boxes := if (s.active.slot o.next).role = .drive then
        s.boxes.set (s.active.slot o.next).mailbox (s.box (s.active.slot o.next).mailbox).driven else s.boxes } := by
  unfold State.slotInstant
  dsimp only
  rw [if_pos h, masterDrive_eq]
  unfold State.emitRing OutRound.leaving
  cases o.sending <;> rfl

/-- The instant at which the round is out whole. -/
theorem slotInstant_last (o : OutRound) (s : State) (h : ¬ o.next < o.slots) :
    s.slotInstant o = { s with rout := s.rout ++ [o.leaving], ring := { s.ring with outRound := none } } := by
  unfold State.slotInstant
  dsimp only
  rw [if_neg h]
  unfold State.emitRing OutRound.leaving
  cases o.sending <;> rfl

theorem emitSlots_none (t fuel : Nat) (s : State) (h : s.ring.outRound = none) : s.emitSlots t fuel = s := by
  cases fuel with
  | zero => rfl
  | succ fuel => unfold State.emitSlots; rw [h]

/-- Fuel for the instants that are left is fuel enough. -/
theorem emitSlots_fuel (t j : Nat) : ∀ (k : Nat) (s : State) (o : OutRound), s.ring.outRound = some o →
    o.slots + 1 - o.next ≤ j → 1 ≤ j → o.slots + 1 - o.next ≤ k → 1 ≤ k → s.emitSlots t j = s.emitSlots t k := by
  induction j with
  | zero => intro k s o _ _ h; omega
  | succ j ih =>
    intro k s o ho h1 _ h2 h3
    cases k with
    | zero => omega
    | succ k =>
      unfold State.emitSlots
      rw [ho]
      dsimp only
      split
      · by_cases hl : o.next < o.slots
        · rw [slotInstant_more o s hl]
          exact ih k _ { o with next := o.next + 1, sending := some (s.masterSlot o.next) } rfl (by dsimp only; omega)
            (by omega) (by dsimp only; omega) (by omega)
        · rw [slotInstant_last o s hl, emitSlots_none t j _ rfl, emitSlots_none t k _ rfl]
      · rfl

theorem advanceTo_none (t : Nat) (s : State) (h : s.ring.outRound = none) : s.advanceTo t = { s with now := t } := by
  unfold State.advanceTo
  rw [emitSlots_none t 65 s h]

theorem advanceTo_early (t : Nat) (o : OutRound) (s : State) (ho : s.ring.outRound = some o)
    (h : ¬ 25 * o.start + 256 * (4 + 10 * o.next) ≤ 25 * t) : s.advanceTo t = { s with now := t } := by
  unfold State.advanceTo State.emitSlots
  rw [ho]
  dsimp only
  rw [if_neg (by rw [OutRound.dueBy_iff]; exact h)]

/-- Moving time past an instant is that instant, then moving time on. -/
theorem advanceTo_instant (t : Nat) (o : OutRound) (s : State) (ho : s.ring.outRound = some o) (hs : o.slots ≤ 64)
    (h : 25 * o.start + 256 * (4 + 10 * o.next) ≤ 25 * t) : s.advanceTo t = (s.slotInstant o).advanceTo t := by
  have e : s.emitSlots t 65 = (s.slotInstant o).emitSlots t 64 := by
    conv_lhs => unfold State.emitSlots
    rw [ho]
    dsimp only
    rw [if_pos ((OutRound.dueBy_iff o t).mpr h)]
  unfold State.advanceTo
  rw [e]
  by_cases hl : o.next < o.slots
  · rw [emitSlots_fuel t 64 65 (s.slotInstant o) { o with next := o.next + 1, sending := some (s.masterSlot o.next) }
      (by rw [slotInstant_more o s hl]) (by dsimp only; omega) (by omega) (by dsimp only; omega) (by omega)]
  · rw [emitSlots_none t 64 _ (by rw [slotInstant_last o s hl]), emitSlots_none t 65 _ (by rw [slotInstant_last o s hl])]

end Sys2Proof.Machine
end

