-- ==== Sys2Proof/Laws/Offers.lean ====
section
/-! SUPPORT. What an offer and a condition event leave of the queue and of the notice unit (06, R98; 10, R174, R176). -/

namespace Sys2Proof.Machine

/-! ### Frames -/

/-- All an offer can change. -/
theorem offer_eq (s : State) : s.offer = { s with
    tx := { s.tx with queued := s.offer.tx.queued }
    notices := { s.notices with
      deferred := s.offer.notices.deferred, repeatCount := s.offer.notices.repeatCount } } := by
  unfold State.offer
  split
  · rfl
  · split <;> rfl

/-- All a condition event can change. -/
theorem latch_eq (c : Condition) (s : State) : s.latch c = { s with
    tx := { s.tx with queued := (s.latch c).tx.queued }
    notices := { s.notices with
      latched := s.notices.latched ||| c.bit
      deferred := (s.latch c).notices.deferred, repeatCount := (s.latch c).notices.repeatCount } } := by
  have hn := latch_notices c s
  have ht : (s.latch c).tx = { s.tx with queued := (s.latch c).tx.queued } := by
    unfold State.latch
    split
    · rfl
    · dsimp only
      split
      · rw [offer_eq]
      · rfl
  have hr : s.latch c = { s with tx := (s.latch c).tx, notices := (s.latch c).notices } := by
    unfold State.latch
    split
    · rfl
    · dsimp only
      split
      · rw [offer_eq]
      · rfl
  rw [hr, hn, ht]

/-- What a condition event leaves of the queue and of the notice unit depends on them and on the frame in flight alone. -/
theorem latch_congr (c : Condition) {s t : State} (htx : t.tx = s.tx) (hb : t.inFlight = s.inFlight)
    (hn : t.notices = { s.notices with attention := t.notices.attention }) :
    (t.latch c).tx = (s.latch c).tx ∧
      (t.latch c).notices = { (s.latch c).notices with attention := t.notices.attention } := by
  have hf (p) : t.hasInFlight p = s.hasInFlight p := by simp only [State.hasInFlight, hb]
  have hq (p) : t.hasQueued p = s.hasQueued p := by simp only [State.hasQueued, htx]
  have hl : t.notices.latched = s.notices.latched := by rw [hn]
  have he : t.notices.enabled = s.notices.enabled := by rw [hn]
  have ho (x y : State) (h1 : x.tx = y.tx) (h2 : ∀ p, x.hasInFlight p = y.hasInFlight p)
      (h3 : ∀ p, x.hasQueued p = y.hasQueued p)
      (h4 : x.notices = { y.notices with attention := x.notices.attention }) :
      x.offer.tx = y.offer.tx ∧ x.offer.notices = { y.offer.notices with attention := x.notices.attention } := by
    unfold State.offer
    rw [h2, h3]
    split
    · exact ⟨h1, by rw [h4]⟩
    · split
      · exact ⟨h1, h4⟩
      · refine ⟨?_, ?_⟩
        · simp only [State.place, h1]
        · simp only [State.place]
          rw [h4]
  unfold State.latch
  rw [hl]
  split
  · exact ⟨htx, hn⟩
  · dsimp only
    rw [he]
    split
    · refine ho _ _ htx hf hq ?_
      dsimp only
      rw [hn]
    · refine ⟨htx, ?_⟩
      dsimp only
      rw [hn]

/-! ### Placements in order -/

theorem placedInOrder_nil (u t : State) : u.placedInOrder [] t ↔ t.tx.queued = u.tx.queued := by
  constructor
  · rintro ⟨es, h1, -, h2, -⟩
    rw [List.map_eq_nil_iff] at h1
    rw [h2, h1, List.append_nil]
  · intro h
    exact ⟨[], rfl, by simp, by simp [h], List.Pairwise.nil, by simp⟩

/-- One more placement, behind everything queued. -/
theorem placedInOrder_snoc {owners : List Owner} {o : Owner} {u v : State} (h : u.placedInOrder owners v)
    (hs : ∀ x ∈ v.tx.queued, x.stamp < v.tx.epoch * 64 + o.rank v.tx.placed) :
    u.placedInOrder (owners ++ [o]) (v.place o) := by
  obtain ⟨es, h1, h2, h3, h4, h5⟩ := h
  refine ⟨es ++ [{ owner := o, stamp := v.tx.epoch * 64 + o.rank v.tx.placed, attempts := 0 }], by simp [h1], ?_, ?_, ?_, ?_⟩
  · intro e he
    rcases List.mem_append.mp he with he | he
    · exact h2 e he
    · rw [List.mem_singleton.mp he]
  · rw [place_queued, insertEntry_above (fun x hx => Nat.le_of_lt (hs x hx)), h3, List.append_assoc]
  · refine List.pairwise_append.mpr ⟨h4, List.pairwise_singleton _ _, fun a ha b hb => ?_⟩
    rw [List.mem_singleton.mp hb]
    exact hs a (by rw [h3]; exact List.mem_append_right _ ha)
  · intro x hx e he
    rcases List.mem_append.mp he with he | he
    · exact h5 x hx e he
    · rw [List.mem_singleton.mp he]
      exact hs x (by rw [h3]; exact List.mem_append_left _ hx)

/-- The first placement of an event that has begun. -/
theorem placedInOrder_one {o : Owner} {u v : State} (h : v.tx.queued = u.tx.queued)
    (hs : ∀ x ∈ u.tx.queued, x.stamp < v.tx.epoch * 64) : u.placedInOrder [o] (v.place o) :=
  placedInOrder_snoc ((placedInOrder_nil u v).mpr h) (fun x hx => Nat.lt_of_lt_of_le (hs x (h ▸ hx)) (Nat.le_add_right _ _))

/-! ### Offers -/

theorem hasQueued_of_placed {owners : List Owner} {u v : State} (h : u.placedInOrder owners v) (p : Owner → Bool)
    (ho : ∀ o ∈ owners, p o = false) : v.hasQueued p = u.hasQueued p := by
  obtain ⟨es, h1, -, h3, -⟩ := h
  have : es.any (fun e => p e.owner) = false := by
    rw [List.any_eq_false]
    intro e he
    have := ho e.owner (h1 ▸ List.mem_map_of_mem he)
    simp [this]
  simp [State.hasQueued, h3, this]

/-- No offer: only what the event has placed has joined the queue. -/
theorem offered_none {owners : List Owner} {u v : State} {makes : Prop} (hm : ¬ makes) (h : u.placedInOrder owners v)
    (hd : v.notices.deferred = u.notices.deferred) (hr : v.notices.repeatCount = u.notices.repeatCount) :
    u.offered owners makes v := by
  simp only [State.offered, hm, false_and, false_implies, not_false_eq_true, true_implies, true_and]
  exact ⟨hd, hr, h⟩

/-- An offer, after what the event has placed before it. -/
theorem offered_offer {owners : List Owner} {u v : State} {makes : Prop} (hm : makes) (h : u.placedInOrder owners v)
    (ho : ∀ o ∈ owners, o.isNotice = false) (hf : v.hasInFlight Owner.isNotice = u.hasInFlight Owner.isNotice)
    (hs : u.hasQueued Owner.isNotice = false → ∀ x ∈ v.tx.queued, x.stamp < v.tx.epoch * 64 + 40)
    (hd : v.notices.deferred = u.notices.deferred) (hr : v.notices.repeatCount = u.notices.repeatCount) :
    u.offered owners makes v.offer := by
  have hq := hasQueued_of_placed h Owner.isNotice ho
  unfold State.offer
  rw [hf, hq]
  simp only [State.offered, hm, true_and]
  by_cases h1 : u.hasInFlight Owner.isNotice = true
  · simp [h1, hr]
    exact h
  · have h1' := Bool.eq_false_iff.mpr h1
    by_cases h2 : u.hasQueued Owner.isNotice = true
    · simp [h1', h2, hd, hr, h]
    · have h2' := Bool.eq_false_iff.mpr h2
      simp [h1', h2']
      exact ⟨hd, placedInOrder_snoc h (hs h2')⟩

/-- A condition event, after what the event has placed before it. -/
theorem conditionEvent_latch {owners : List Owner} {c : Condition} {u v : State} {happens : Prop} (hh : happens)
    (h : u.placedInOrder owners v) (ho : ∀ o ∈ owners, o.isNotice = false)
    (hf : v.hasInFlight Owner.isNotice = u.hasInFlight Owner.isNotice)
    (hs : u.hasQueued Owner.isNotice = false → ∀ x ∈ v.tx.queued, x.stamp < v.tx.epoch * 64 + 40)
    (hn : v.notices = { u.notices with attention := v.notices.attention }) :
    u.conditionEvent owners c happens (v.latch c) := by
  have hl : v.notices.latched = u.notices.latched := by rw [hn]
  have he : v.notices.enabled = u.notices.enabled := by rw [hn]
  have hd : v.notices.deferred = u.notices.deferred := by rw [hn]
  have hr : v.notices.repeatCount = u.notices.repeatCount := by rw [hn]
  refine ⟨fun _ => by rw [latch_latched, hl], fun hc => absurd hh hc, ?_⟩
  unfold State.latch
  rw [hl]
  split
  · rename_i h1
    exact offered_none (by simp [h1]) h hd hr
  · rename_i h1
    dsimp only
    rw [he]
    split
    · rename_i h2
      exact offered_offer ⟨hh, Bool.eq_false_iff.mpr h1, h2⟩ h ho hf hs hd hr
    · rename_i h2
      exact offered_none (by simp [h2]) h hd hr

/-- No condition event. -/
theorem conditionEvent_none {owners : List Owner} {c : Condition} {u v : State} {happens : Prop} (hh : ¬ happens)
    (h : u.placedInOrder owners v) (hn : v.notices = { u.notices with attention := v.notices.attention }) :
    u.conditionEvent owners c happens v :=
  ⟨fun hc => absurd hc hh, fun _ => by rw [hn], offered_none (fun hc => hh hc.1) h (by rw [hn]) (by rw [hn])⟩

/-- What a condition event says is read off the queue and the notice unit alone. -/
theorem conditionEvent_congr {owners : List Owner} {c : Condition} {u t t' : State} {happens : Prop}
    (h : u.conditionEvent owners c happens t) (hq : t'.tx.queued = t.tx.queued)
    (hn : t'.notices = { t.notices with attention := t'.notices.attention }) :
    u.conditionEvent owners c happens t' := by
  have hl : t'.notices.latched = t.notices.latched := by rw [hn]
  have hd : t'.notices.deferred = t.notices.deferred := by rw [hn]
  have hr : t'.notices.repeatCount = t.notices.repeatCount := by rw [hn]
  simp only [State.conditionEvent, State.offered, State.placedInOrder, hl, hd, hr, hq] at h ⊢
  exact h

end Sys2Proof.Machine
end

