-- ==== Sys2Proof/Laws/Matching.lean ====
section
/-! SUPPORT. What the offer of a frame to the match unit does (02, R20, R21, R23, R24, R25; 08, R140; 10, R182). -/

namespace Sys2Proof.Machine

theorem live_congr {s t : State} (h : t.counters = s.counters) (k : Fin 111) : t.live k = s.live k := by
  simp only [State.live, h]

theorem box_congr {s t : State} (h : t.boxes = s.boxes) (m : Fin 32) : t.box m = s.box m := by
  simp only [State.box, h]

theorem config_congr {s t : State} (h : t.active = s.active) (m : Fin 32) : t.config m = s.config m := by
  simp only [State.config, h]

theorem takesFrame_congr {s t : State} (h : t.active = s.active) (f : Frame) (m : Fin 32) :
    t.takesFrame f m ↔ s.takesFrame f m := by
  simp only [State.takesFrame, config_congr h]

theorem inFlight_congr {s t : State} (h : t.bus.flight = s.bus.flight) : t.inFlight = s.inFlight := by
  unfold State.inFlight
  rw [h]

theorem data8Of_get (l : List Byte) (n : Nat) (i : Fin 8) : (data8Of l n)[i] = if i.val < n then l.getD i.val 0 else 0 := by
  simp [data8Of]

/-! ### A store -/

/-- What a store of a frame at mailbox m does. -/
structure Stores (f : Frame) (m : Fin 32) (s t : State) : Prop where
  stored : Runtime.isStored f (s.box m) (t.box m)
  data : (t.box m).data = data8Of f.bytes f.count
  other : ∀ j, j ≠ m → t.box j = s.box j
  a : t.live (counterA m) = satSucc (s.live (counterA m))
  b : t.live (counterB m) = if (s.box m).state = .fresh then satSucc (s.live (counterB m)) else s.live (counterB m)
  live : ∀ k, k ≠ counterA m → k ≠ counterB m → t.live k = s.live k
  counters : t.counters = { s.counters with live := t.counters.live }
  engine : t.engine = { s.engine with hold := { s.engine.hold with
    changed := s.engine.hold.changed || ((s.box m).data != data8Of f.bytes f.count && s.engine.hold.valid &&
      s.engine.hold.mailbox == m) } }
  attention : t.notices.attention = if (s.box m).state = .fresh ∧ (s.config m).attention = true
    then s.notices.attention ||| BitVec.twoPow 32 m.val else s.notices.attention
  latched : (s.box m).state = .fresh ∧ (s.config m).attention = true ∧ s.notices.attention = 0 →
    t.tx = (s.latch .attention).tx ∧
      t.notices = { (s.latch .attention).notices with attention := t.notices.attention }
  unlatched : ¬ ((s.box m).state = .fresh ∧ (s.config m).attention = true ∧ s.notices.attention = 0) →
    t.tx = s.tx ∧ t.notices = { s.notices with attention := t.notices.attention }

/-- An attention event, on the notice unit and the queue (10, R182). -/
theorem markAttention_marks (m : Fin 32) (s : State) :
    ((s.markAttention m).notices.attention = if (s.config m).attention = true
      then s.notices.attention ||| BitVec.twoPow 32 m.val else s.notices.attention) ∧
    ((s.config m).attention = true ∧ s.notices.attention = 0 → (s.markAttention m).tx = (s.latch .attention).tx ∧
      (s.markAttention m).notices =
        { (s.latch .attention).notices with attention := (s.markAttention m).notices.attention }) ∧
    (¬ ((s.config m).attention = true ∧ s.notices.attention = 0) → (s.markAttention m).tx = s.tx ∧
      (s.markAttention m).notices = { s.notices with attention := (s.markAttention m).notices.attention }) := by
  by_cases h1 : (s.config m).attention = true
  · by_cases h2 : s.notices.attention = 0
    · obtain ⟨x, hx⟩ : ∃ x : State, x = { s with notices := { s.notices with
        attention := s.notices.attention ||| BitVec.twoPow 32 m.val } } := ⟨_, rfl⟩
      have hm : s.markAttention m = x.latch .attention := by
        unfold State.markAttention
        simp only [h1, if_true, h2, beq_self_eq_true, hx]
      have hxa : x.notices.attention = s.notices.attention ||| BitVec.twoPow 32 m.val := by rw [hx]
      obtain ⟨h3, h4⟩ := latch_congr .attention (s := s) (t := x) (by rw [hx]) (by rw [hx]; rfl) (by rw [hx])
      have h5 : (x.latch .attention).notices.attention = x.notices.attention := by rw [latch_notices]
      rw [hm, if_pos h1, h5, hxa]
      exact ⟨rfl, fun _ => ⟨h3, by rw [h4, hxa]⟩, fun h => absurd ⟨h1, h2⟩ h⟩
    · have hm : s.markAttention m = { s with notices := { s.notices with
          attention := s.notices.attention ||| BitVec.twoPow 32 m.val } } := by
        unfold State.markAttention
        rw [if_pos h1]
        exact if_neg (by simpa using h2)
      rw [hm, if_pos h1]
      exact ⟨rfl, fun h => absurd h.2 h2, fun _ => ⟨rfl, rfl⟩⟩
  · unfold State.markAttention
    simp [h1]

theorem touchHold_hold (m : Fin 32) (a : Bool) (s : State) : (s.touchHold m a).engine =
    { s.engine with hold := { s.engine.hold with
      changed := s.engine.hold.changed || (a && s.engine.hold.valid && s.engine.hold.mailbox == m) } } := by
  unfold State.touchHold
  split
  · rename_i h
    rw [h, Bool.or_true]
  · rename_i h
    rw [Bool.eq_false_iff.mpr h, Bool.or_false]

theorem store_stores (f : Frame) (m : Fin 32) (s : State) : Stores f m s (s.store f m) := by
  have hAB : counterA m ≠ counterB m := by simp [counterA, counterB, Fin.ext_iff]
  unfold State.store
  dsimp only
  generalize hd : data8Of f.bytes f.count = d
  generalize hc : ((s.box m).data != d) = c
  obtain ⟨b, hb⟩ : ∃ b : Runtime, b = { s.box m with state := .fresh, data := d, dataLength := f.count, age := 0 } :=
    ⟨_, rfl⟩
  rw [← hb]
  obtain ⟨x, hx⟩ : ∃ x, x = ((s.setBox m b).touchHold m c).count (counterA m) := ⟨_, rfl⟩
  have xbox (j) : x.box j = if j = m then b else s.box j := by
    rw [hx, box_congr (s := s.setBox m b) (by simp)]
    exact setBox_box _ _ _ _
  have xA : x.live (counterA m) = satSucc (s.live (counterA m)) := by
    rw [hx, count_live_self, live_congr (s := s) (by simp)]
  have xlive (k) (hk : k ≠ counterA m) : x.live k = s.live k := by
    rw [hx, count_live_other hk, live_congr (s := s) (by simp)]
  have xnotices : x.notices = s.notices := by
    rw [hx]
    simp
  have xtx : x.tx = s.tx := by
    rw [hx]
    simp
  have xbus : x.bus = s.bus := by
    rw [hx]
    simp
  have xconfig (j) : x.config j = s.config j := config_congr (by rw [hx]; simp) j
  have xcounters : x.counters = { s.counters with live := x.counters.live } := by
    rw [hx]
    simp [State.count]
  have xengine : x.engine = { s.engine with hold := { s.engine.hold with
      changed := s.engine.hold.changed || (c && s.engine.hold.valid && s.engine.hold.mailbox == m) } } := by
    rw [hx]
    exact touchHold_hold m c (s.setBox m b)
  have st : Runtime.isStored f (s.box m) b := by
    refine ⟨by rw [hb], fun i => ?_⟩
    have : b.data[i] = (data8Of f.bytes f.count)[i] := by rw [hb, ← hd]
    rw [this, data8Of_get]
    by_cases h : i.val < f.count
    · simp [Frame.bytes, h]
    · simp [h]
  have sd : b.data = d := by rw [hb]
  rw [← hx]
  clear hx
  split
  · rename_i hf
    obtain ⟨y, hy⟩ : ∃ y, y = x.count (counterB m) := ⟨_, rfl⟩
    have ybox (j) : y.box j = x.box j := by
      rw [hy]
      exact box_congr (by simp) j
    have yn : y.notices = s.notices := by
      rw [hy, ← xnotices]
      rfl
    have yt : y.tx = s.tx := by
      rw [hy, ← xtx]
      rfl
    have yc (j) : y.config j = s.config j := by
      rw [hy, ← xconfig]
      rfl
    have ye : y.engine = x.engine := by
      rw [hy]
      rfl
    have ycc : y.counters = { x.counters with live := y.counters.live } := by
      rw [hy]
      rfl
    have yA : y.live (counterA m) = x.live (counterA m) := by
      rw [hy]
      exact count_live_other hAB _
    have yB : y.live (counterB m) = satSucc (x.live (counterB m)) := by
      rw [hy]
      exact count_live_self _ _
    have yo (k) (hk : k ≠ counterB m) : y.live k = x.live k := by
      rw [hy]
      exact count_live_other hk _
    have yl : (y.latch .attention).tx = (s.latch .attention).tx ∧
        (y.latch .attention).notices = (s.latch .attention).notices := by
      have := latch_congr .attention (s := s) (t := y) yt
        (inFlight_congr (by rw [hy]; exact congrArg BusPort.flight xbus)) (by rw [yn])
      refine ⟨this.1, this.2.trans ?_⟩
      rw [yn, latch_notices]
    rw [← hy]
    obtain ⟨k1, k2, k3⟩ := markAttention_marks m y
    rw [yc, yn] at k1 k2 k3
    rw [yl.1, yl.2] at k2
    rw [yt] at k3
    have e1 : (y.markAttention m).boxes = y.boxes := by simp
    have e2 : (y.markAttention m).counters = y.counters := by simp
    have e3 : (y.markAttention m).engine = y.engine := by simp
    constructor
    · rw [box_congr e1, ybox, xbox, if_pos rfl]
      exact st
    · rw [box_congr e1, ybox, xbox, if_pos rfl, sd, hd]
    · intro j hj
      rw [box_congr e1, ybox, xbox, if_neg hj]
    · rw [live_congr e2, yA, xA]
    · rw [live_congr e2, yB, xlive _ (Ne.symm hAB), if_pos hf]
    · intro k h1 h2
      rw [live_congr e2, yo k h2, xlive _ h1]
    · rw [e2, ycc, xcounters]
    · rw [e3, ye, xengine, hd, ← hc]
    · rw [k1]
      simp [hf]
    · exact fun h => k2 h.2
    · exact fun h => k3 (fun h' => h ⟨hf, h'⟩)
  · rename_i hf
    constructor
    · rw [xbox, if_pos rfl]
      exact st
    · rw [xbox, if_pos rfl, sd, hd]
    · intro j hj
      rw [xbox, if_neg hj]
    · exact xA
    · rw [xlive _ (Ne.symm hAB), if_neg hf]
    · exact fun k h1 _ => xlive k h1
    · exact xcounters
    · rw [xengine, hd, ← hc]
    · rw [xnotices]
      simp [hf]
    · exact fun h => absurd h.1 hf
    · exact fun _ => ⟨xtx, by rw [xnotices]⟩

/-! ### The walk -/

/-- Whether the walk over the mailboxes of a list takes the frame at mailbox m (02, R21). -/
def State.takesIn (s : State) (f : Frame) (l : List (Fin 32)) (m : Fin 32) : Prop :=
  m ∈ l ∧ (s.config m).takes f.id = true ∧
    ∀ k ∈ l, k < m → (s.config k).takes f.id = true → (s.config k).chain = true

theorem takesIn_allBoxes (s : State) (f : Frame) (m : Fin 32) : s.takesIn f allBoxes m ↔ s.takesFrame f m := by
  simp [State.takesIn, State.takesFrame, allBoxes]

/-- What a walk does that takes the frame at the mailboxes `takes` picks out. -/
structure Walks (f : Frame) (takes : Fin 32 → Prop) (s t : State) : Prop where
  stored : ∀ m, takes m → Runtime.isStored f (s.box m) (t.box m) ∧ (t.box m).data = data8Of f.bytes f.count ∧
    t.live (counterA m) = satSucc (s.live (counterA m)) ∧
    t.live (counterB m) = (if (s.box m).state = .fresh then satSucc (s.live (counterB m)) else s.live (counterB m))
  other : ∀ m, ¬ takes m → t.box m = s.box m ∧ t.live (counterA m) = s.live (counterA m) ∧
    t.live (counterB m) = s.live (counterB m)
  c : ∀ m, t.live (counterC m) = s.live (counterC m)
  high : ∀ k : Fin 111, 96 ≤ k.val → t.live k = s.live k
  counters : t.counters = { s.counters with live := t.counters.live }
  altered : takes s.engine.hold.mailbox → (s.box s.engine.hold.mailbox).data ≠ data8Of f.bytes f.count →
    s.engine.hold.valid = true → t.engine = { s.engine with hold := { s.engine.hold with changed := true } }
  unaltered : ¬ (takes s.engine.hold.mailbox ∧ (s.box s.engine.hold.mailbox).data ≠ data8Of f.bytes f.count ∧
    s.engine.hold.valid = true) → t.engine = s.engine
  attention : ∀ m : Fin 32, t.notices.attention.getLsbD m.val = true ↔ s.notices.attention.getLsbD m.val = true ∨
    (takes m ∧ (s.box m).state = .fresh ∧ (s.config m).attention = true)
  latched : (s.notices.attention = 0 ∧ ∃ m, takes m ∧ (s.box m).state = .fresh ∧ (s.config m).attention = true) →
    t.tx = (s.latch .attention).tx ∧
      t.notices = { (s.latch .attention).notices with attention := t.notices.attention }
  unlatched : ¬ (s.notices.attention = 0 ∧ ∃ m, takes m ∧ (s.box m).state = .fresh ∧ (s.config m).attention = true) →
    t.tx = s.tx ∧ t.notices = { s.notices with attention := t.notices.attention }

theorem twoPow_bit (m j : Fin 32) (v : BitVec 32) : (v ||| BitVec.twoPow 32 m.val).getLsbD j.val = true ↔
    v.getLsbD j.val = true ∨ j = m := by
  have hm := m.isLt
  rw [BitVec.getLsbD_or, BitVec.getLsbD_twoPow, Bool.or_eq_true, Bool.and_eq_true, decide_eq_true_eq, decide_eq_true_eq,
    Fin.ext_iff]
  constructor
  · rintro (h | h)
    · exact Or.inl h
    · exact Or.inr h.2.symm
  · rintro (h | h)
    · exact Or.inl h
    · exact Or.inr ⟨hm, h.symm⟩

theorem or_twoPow_ne_zero (m : Fin 32) (v : BitVec 32) : v ||| BitVec.twoPow 32 m.val ≠ 0 := by
  intro h
  have := (twoPow_bit m m v).mpr (Or.inr rfl)
  rw [h] at this
  simp at this

theorem Walks.none (f : Frame) (s : State) {takes : Fin 32 → Prop} (h : ∀ m, ¬ takes m) : Walks f takes s s where
  stored m hm := absurd hm (h m)
  other _ _ := ⟨rfl, rfl, rfl⟩
  c _ := rfl
  high _ _ := rfl
  counters := rfl
  altered hm := absurd hm (h _)
  unaltered _ := rfl
  attention m := by simp [h]
  latched := by simp [h]
  unlatched _ := ⟨rfl, rfl⟩

theorem Walks.congr {f : Frame} {p q : Fin 32 → Prop} {s t : State} (h : Walks f p s t) (e : ∀ m, p m ↔ q m) :
    Walks f q s t := by
  have : p = q := funext fun m => propext (e m)
  rw [← this]
  exact h

/-- A store at mailbox m, then a walk past it. -/
theorem Walks.cons {f : Frame} {m : Fin 32} {takes : Fin 32 → Prop} {s x t : State} (hs : Stores f m s x)
    (hb : x.inFlight = s.inFlight) (hc : x.active = s.active) (hm : ¬ takes m) (h : Walks f takes x t) :
    Walks f (fun j => j = m ∨ takes j) s t := by
  have hne (j : Fin 32) (hj : j ≠ m) : counterA j ≠ counterA m ∧ counterA j ≠ counterB m ∧ counterB j ≠ counterA m ∧
      counterB j ≠ counterB m := by
    have : j.val ≠ m.val := fun e => hj (Fin.ext e)
    simp only [counterA, counterB, ne_eq, Fin.mk.injEq]
    omega
  have hC (j : Fin 32) : counterC j ≠ counterA m ∧ counterC j ≠ counterB m := by
    simp only [counterA, counterB, counterC, ne_eq, Fin.mk.injEq]
    omega
  have hH (k : Fin 111) (hk : 96 ≤ k.val) : k ≠ counterA m ∧ k ≠ counterB m := by
    simp only [counterA, counterB, ne_eq, Fin.ext_iff]
    omega
  have hcf (j) : x.config j = s.config j := config_congr hc j
  have hm1 := h.other m hm
  have hxm : x.engine.hold.mailbox = s.engine.hold.mailbox := by rw [hs.engine]
  have hxv : x.engine.hold.valid = s.engine.hold.valid := by rw [hs.engine]
  constructor
  · intro j hj
    by_cases e : j = m
    · subst e
      rw [hm1.1, hm1.2.1, hm1.2.2]
      exact ⟨hs.stored, hs.data, hs.a, hs.b⟩
    · obtain ⟨n1, n2, n3, n4⟩ := hne j e
      have := h.stored j (hj.resolve_left e)
      rw [hs.other j e, hs.live _ n1 n2, hs.live _ n3 n4] at this
      exact this
  · intro j hj
    have e : j ≠ m := fun e => hj (Or.inl e)
    obtain ⟨n1, n2, n3, n4⟩ := hne j e
    have := h.other j (fun ht => hj (Or.inr ht))
    rw [hs.other j e, hs.live _ n1 n2, hs.live _ n3 n4] at this
    exact this
  · intro j
    rw [h.c, hs.live _ (hC j).1 (hC j).2]
  · intro k hk
    rw [h.high k hk, hs.live _ (hH k hk).1 (hH k hk).2]
  · rw [h.counters, hs.counters]
  · intro h1 h2 h3
    by_cases e : s.engine.hold.mailbox = m
    · have hx : x.engine = { s.engine with hold := { s.engine.hold with changed := true } } := by
        rw [hs.engine]
        simp [h3, e]
        exact Or.inr (by rw [← e]; exact h2)
      rw [h.unaltered (by rw [hxm, e]; exact fun h' => hm h'.1), hx]
    · have hx : x.engine = s.engine := by
        rw [hs.engine, show (s.engine.hold.mailbox == m) = false from beq_eq_false_iff_ne.mpr e, Bool.and_false,
          Bool.or_false]
      rw [h.altered (by rw [hxm]; exact h1.resolve_left e) (by rw [hxm, hs.other _ e]; exact h2) (by rw [hxv]; exact h3), hx]
  · intro h1
    have hx : x.engine = s.engine := by
      rw [hs.engine]
      by_cases e : s.engine.hold.mailbox = m
      · have : ((s.box m).data != data8Of f.bytes f.count && s.engine.hold.valid) = false := by
          rw [Bool.and_eq_false_iff]
          by_cases h3 : s.engine.hold.valid = true
          · left
            by_contra h4
            exact h1 ⟨Or.inl e, by rw [e]; simpa using h4, h3⟩
          · right
            exact Bool.eq_false_iff.mpr h3
        simp [this]
      · rw [show (s.engine.hold.mailbox == m) = false from beq_eq_false_iff_ne.mpr e, Bool.and_false, Bool.or_false]
    rw [h.unaltered, hx]
    rintro ⟨h2, h3, h4⟩
    rw [hxm] at h2 h3
    have e : s.engine.hold.mailbox ≠ m := fun e => hm (e ▸ h2)
    rw [hs.other _ e] at h3
    exact h1 ⟨Or.inr h2, h3, hxv ▸ h4⟩
  · intro j
    rw [h.attention j, hs.attention, hcf]
    by_cases e : j = m
    · subst e
      by_cases h1 : (s.box j).state = .fresh ∧ (s.config j).attention = true
      · rw [if_pos h1, twoPow_bit]
        simp [h1.1, h1.2]
      · rw [if_neg h1]
        simp [hm, h1]
    · rw [hs.other j e]
      split
      · rw [twoPow_bit]
        simp [e]
      · simp [e]
  · rintro ⟨h1, j, h2, h3, h4⟩
    by_cases h5 : (s.box m).state = .fresh ∧ (s.config m).attention = true
    · have hx := hs.latched ⟨h5.1, h5.2, h1⟩
      have hz : x.notices.attention ≠ 0 := by
        rw [hs.attention, if_pos h5]
        exact or_twoPow_ne_zero m _
      obtain ⟨g1, g2⟩ := h.unlatched (fun h' => hz h'.1)
      refine ⟨g1.trans hx.1, ?_⟩
      rw [g2, hx.2]
    · have hx := hs.unlatched (fun h' => h5 ⟨h'.1, h'.2.1⟩)
      have hz : x.notices.attention = 0 := by
        rw [hs.attention, if_neg h5, h1]
      have e : j ≠ m := by
        rintro rfl
        exact h5 ⟨h3, h4⟩
      obtain ⟨g1, g2⟩ := h.latched ⟨hz, j, h2.resolve_left e, by rw [hs.other j e]; exact h3, by rw [hcf]; exact h4⟩
      obtain ⟨g3, g4⟩ := latch_congr .attention hx.1 hb hx.2
      refine ⟨g1.trans g3, ?_⟩
      rw [g2, g4]
  · intro h1
    have h5 : ¬ ((s.box m).state = .fresh ∧ (s.config m).attention = true ∧ s.notices.attention = 0) :=
      fun h' => h1 ⟨h'.2.2, m, Or.inl rfl, h'.1, h'.2.1⟩
    have hx := hs.unlatched h5
    obtain ⟨g1, g2⟩ := h.unlatched (by
      rintro ⟨h2, j, h3, h4, h6⟩
      have e : j ≠ m := fun e => hm (e ▸ h3)
      rw [hs.other j e] at h4
      rw [hcf] at h6
      rw [hs.attention] at h2
      split at h2
      · exact or_twoPow_ne_zero m _ h2
      · exact h1 ⟨h2, j, Or.inr h3, h4, h6⟩)
    refine ⟨g1.trans hx.1, ?_⟩
    rw [g2, hx.2]

theorem walk_walks (f : Frame) (l : List (Fin 32)) (s : State) (hl : l.Pairwise (· < ·)) :
    Walks f (s.takesIn f l) s (s.walk f l) := by
  induction l generalizing s with
  | nil => exact Walks.none f s (fun m h => by simp [State.takesIn] at h)
  | cons m l ih =>
    rw [List.pairwise_cons] at hl
    have hst := store_stores f m s
    have hb : (s.store f m).inFlight = s.inFlight := inFlight_congr (by simp)
    have ha : (s.store f m).active = s.active := by simp
    have hcf (j) : (s.store f m).config j = s.config j := config_congr ha j
    unfold State.walk
    by_cases ht : (s.config m).takes f.id = true
    · rw [if_pos ht]
      have hself : s.takesIn f (m :: l) m := by
        refine ⟨by simp, ht, fun k hk hkm => ?_⟩
        rcases List.mem_cons.mp hk with rfl | hk
        · exact absurd hkm (lt_irrefl _)
        · exact absurd (hl.1 _ hk) (lt_asymm hkm)
      by_cases hc : (s.config m).chain = true
      · rw [if_pos hc]
        refine (Walks.cons hst hb ha (fun h => absurd (hl.1 _ h.1) (lt_irrefl _)) (ih _ hl.2)).congr fun j => ?_
        simp only [State.takesIn, hcf, List.mem_cons]
        constructor
        · rintro (rfl | ⟨a, b, c⟩)
          · exact ⟨Or.inl rfl, hself.2.1, fun k hk => hself.2.2 k (List.mem_cons.mpr hk)⟩
          · refine ⟨Or.inr a, b, ?_⟩
            rintro k (rfl | hk) h1 h2
            · exact hc
            · exact c k hk h1 h2
        · rintro ⟨a, b, c⟩
          rcases a with a | a
          · exact Or.inl a
          · exact Or.inr ⟨a, b, fun k hk => c k (Or.inr hk)⟩
      · rw [if_neg hc]
        refine (Walks.cons hst hb ha (fun h : False => h) (Walks.none f _ (takes := fun _ => False) (fun _ h => h))).congr
          fun j => ?_
        rw [or_false]
        constructor
        · rintro rfl
          exact hself
        · rintro ⟨a, b, c⟩
          rcases List.mem_cons.mp a with h | h
          · exact h
          · exact absurd (c m (by simp) (hl.1 _ h) ht) hc
    · rw [if_neg ht]
      refine (ih s hl.2).congr fun j => ?_
      simp only [State.takesIn, List.mem_cons]
      constructor
      · rintro ⟨a, b, c⟩
        refine ⟨Or.inr a, b, ?_⟩
        rintro k (rfl | hk) h1 h2
        · exact absurd h2 ht
        · exact c k hk h1 h2
      · rintro ⟨a | a, b, c⟩
        · subst a
          exact absurd b ht
        · exact ⟨a, b, fun k hk => c k (Or.inr hk)⟩

/-- All the offer of a frame to the match unit does (02, R18 to R25). -/
theorem offerToMatch_walks (f : Frame) (s : State) : Walks f (s.takesFrame f) s (s.offerToMatch f) :=
  (walk_walks f allBoxes s (List.pairwise_lt_finRange 32)).congr (takesIn_allBoxes s f)

/-! ### In the words of the statements -/

theorem matchedAt_of_walks {f : Frame} {j : Fin 32} {u x t : State} {offered : Prop} (ho : offered)
    (w : Walks f (x.takesFrame f) x t) (ha : x.active = u.active) (hb : x.box j = u.box j)
    (h1 : x.live (counterA j) = u.live (counterA j)) (h2 : x.live (counterB j) = u.live (counterB j))
    (h3 : x.live (counterC j) = u.live (counterC j)) : u.matchedAt f offered j t := by
  simp only [State.matchedAt, ho, true_and]
  rw [← takesFrame_congr ha]
  refine ⟨fun h => ?_, fun h => ?_⟩
  · obtain ⟨w1, -, w3, w4⟩ := w.stored j h
    rw [← hb, ← h1, ← h2, ← h3]
    exact ⟨w1, w3, w4, w.c j⟩
  · obtain ⟨w1, w2, w3⟩ := w.other j h
    rw [← hb, ← h1, ← h2, ← h3]
    exact ⟨w1, w2, w3, w.c j⟩

theorem matchedAt_none {f : Frame} {j : Fin 32} {u t : State} {offered : Prop} (ho : ¬ offered) (hb : t.box j = u.box j)
    (h1 : t.live (counterA j) = u.live (counterA j)) (h2 : t.live (counterB j) = u.live (counterB j))
    (h3 : t.live (counterC j) = u.live (counterC j)) : u.matchedAt f offered j t := by
  simp only [State.matchedAt, ho, false_and, false_implies, not_false_eq_true, true_implies, true_and]
  exact ⟨hb, h1, h2, h3⟩

theorem overwrites_iff {f : Frame} {u x : State} (ha : x.active = u.active)
    (hb : ∀ j, u.takesFrame f j → x.box j = u.box j) (m : Fin 32) :
    (x.takesFrame f m ∧ (x.box m).state = .fresh ∧ (x.config m).attention = true) ↔ u.overwrites f m := by
  unfold State.overwrites
  rw [takesFrame_congr ha, config_congr ha]
  constructor
  · rintro ⟨h1, h2, h3⟩
    exact ⟨h1, hb m h1 ▸ h2, h3⟩
  · rintro ⟨h1, h2, h3⟩
    exact ⟨h1, (hb m h1).symm ▸ h2, h3⟩

theorem matchMarks_of_walks {f : Frame} {u x t : State} {offered : Prop} (ho : offered)
    (w : Walks f (x.takesFrame f) x t) (ha : x.active = u.active) (hb : ∀ j, u.takesFrame f j → x.box j = u.box j)
    (he : x.engine = u.engine) (hn : x.notices.attention = u.notices.attention) : u.matchMarks f offered t := by
  have key (h : u.takesFrame f u.engine.hold.mailbox) : (u.box u.engine.hold.mailbox).data ≠ (t.box u.engine.hold.mailbox).data
      ↔ (x.box x.engine.hold.mailbox).data ≠ data8Of f.bytes f.count := by
    have h' := (takesFrame_congr ha f _).mpr h
    rw [(w.stored _ h').2.1, he, hb _ h]
  simp only [State.matchMarks, ho, true_and]
  refine ⟨fun m => ?_, fun h => ?_, fun h => ?_⟩
  · rw [w.attention m, hn, overwrites_iff ha hb]
  · rw [w.altered (by rw [he]; exact (takesFrame_congr ha f _).mpr h.1) ((key h.1).mp h.2.2) (by rw [he]; exact h.2.1), he]
  · rw [w.unaltered, he]
    rintro ⟨h1, h2, h3⟩
    rw [he] at h1 h3
    have h1' := (takesFrame_congr ha f _).mp h1
    exact h ⟨h1', h3, (key h1').mpr h2⟩

theorem matchMarks_none {f : Frame} {u t : State} {offered : Prop} (ho : ¬ offered) (he : t.engine = u.engine)
    (hn : t.notices.attention = u.notices.attention) : u.matchMarks f offered t := by
  simp only [State.matchMarks, ho, false_and, or_false, false_implies, not_false_eq_true, true_implies, true_and]
  exact ⟨fun m => by rw [hn], he⟩

/-- The condition event an offered frame brings, after what the event has placed before it. -/
theorem conditionEvent_of_walks {owners : List Owner} {f : Frame} {u x t : State} {offered : Prop} (ho : offered)
    (w : Walks f (x.takesFrame f) x t) (ha : x.active = u.active) (hb : ∀ j, u.takesFrame f j → x.box j = u.box j)
    (h : u.placedInOrder owners x) (hw : ∀ o ∈ owners, o.isNotice = false)
    (hf : x.hasInFlight Owner.isNotice = u.hasInFlight Owner.isNotice)
    (hs : u.hasQueued Owner.isNotice = false → ∀ e ∈ x.tx.queued, e.stamp < x.tx.epoch * 64 + 40)
    (hn : x.notices = u.notices) : u.conditionEvent owners .attention (u.matchAttends f offered) t := by
  have e : (x.notices.attention = 0 ∧ ∃ m, x.takesFrame f m ∧ (x.box m).state = .fresh ∧ (x.config m).attention = true) ↔
      u.matchAttends f offered := by
    simp only [State.matchAttends, ho, true_and, hn, overwrites_iff ha hb]
  by_cases hc : u.matchAttends f offered
  · obtain ⟨g1, g2⟩ := w.latched (e.mpr hc)
    refine conditionEvent_congr (conditionEvent_latch (v := x) hc h hw hf hs (by rw [hn])) (congrArg TransmitQueue.queued g1) g2
  · obtain ⟨g1, g2⟩ := w.unlatched (fun h' => hc (e.mp h'))
    exact conditionEvent_congr (conditionEvent_none (v := x) hc h (by rw [hn])) (congrArg TransmitQueue.queued g1) g2

end Sys2Proof.Machine
end

