-- ==== Sys2Proof/Laws/Reports.lean ====
section
/-! SUPPORT. Triggers, the tests at the end of an arrival, and class LOST at report mailboxes (04, R71; 05, R79 to R91). -/

namespace Sys2Proof.Machine

/-! ### Triggers and tests -/

/-- An offer, a condition event and an attention event drop no queued entry. -/
theorem mem_offer (s : State) {e : Entry} (h : e ∈ s.tx.queued) : e ∈ s.offer.tx.queued := by
  unfold State.offer
  (repeat' split) <;> first | exact h | exact mem_insertEntry.mpr (Or.inr h)

theorem mem_latch (c : Condition) (s : State) {e : Entry} (h : e ∈ s.tx.queued) : e ∈ (s.latch c).tx.queued := by
  unfold State.latch
  dsimp only
  (repeat' split) <;> first | exact h | exact mem_offer _ h

theorem mem_markAttention (m : Fin 32) (s : State) {e : Entry} (h : e ∈ s.tx.queued) : e ∈ (s.markAttention m).tx.queued := by
  unfold State.markAttention
  dsimp only
  (repeat' split) <;> first | exact h | exact mem_latch _ _ h

/-- Some flagged byte differs (05, R82). -/
theorem flaggedDiffers_iff (mask : BitVec 8) (x y : Data8) :
    flaggedDiffers mask x y = true ↔ ∃ i : Fin 8, mask.getLsbD i.val = true ∧ x[i] ≠ y[i] := by
  simp [flaggedDiffers]

/-- The change tests (05, R81). -/
theorem triggers_iff (c : MailboxConfig) (b : Runtime) (previous : SlotClass) :
    triggers c b previous = true ↔ Triggers c b previous := by
  have e : b.referenceContent = if b.state = .sending then b.captured.getD b.lastSent else b.lastSent := rfl
  simp only [triggers, Triggers, ← e, Bool.or_eq_true, Bool.and_eq_true, decide_eq_true_eq, Bool.not_eq_true',
    decide_eq_false_iff_not, flaggedDiffers_iff, or_assoc, and_assoc]
  cases b.classSeen.degraded <;> simp

/-- All a trigger does (05, R85; 01, R13). -/
theorem trigger_eq (m : Fin 32) (s : State) : s.trigger m = { s with
    boxes := s.boxes.set m (s.box m).triggered
    counters := if (s.box m).state = .pending then (s.count (counterB m)).counters else s.counters
    tx := if ((s.box m).state = .void ∨ (s.box m).state = .quiet) ∧ s.hasInFlight (Owner.isReportOf m) = false
      then (s.placeReport m).tx else s.tx } := by
  have h : s.boxes.set m (s.box m) = s.boxes := by simp [State.box]
  unfold State.trigger Runtime.triggered
  dsimp only
  cases hb : (s.box m).state with
  | void | quiet =>
    dsimp only
    split
    · rename_i hf
      have hf' : s.hasInFlight (Owner.isReportOf m) = true := hf
      simp [hf', State.setBox]
    · rename_i hf
      have hf' : s.hasInFlight (Owner.isReportOf m) = false := Bool.eq_false_iff.mpr hf
      simp [hf', State.setBox, State.placeReport, State.place, State.box]
  | pending => simp [h, State.count]
  | sending => simp [State.setBox]
  | fresh | held | stale => simp [h]

/-- Attention bit m alone, and the notice of a set that was empty (01, R14; 10, R182). -/
theorem markAttention_eq (m : Fin 32) (s : State) : s.markAttention m =
    if (s.config m).attention = true then
      (if s.notices.attention = 0 then
        State.latch .attention { s with notices := { s.notices with attention := s.notices.attention ||| BitVec.twoPow 32 m.val } }
      else { s with notices := { s.notices with attention := s.notices.attention ||| BitVec.twoPow 32 m.val } })
    else s := by
  unfold State.markAttention
  simp

theorem markAttention_attention (m : Fin 32) (s : State) (h : (s.config m).attention = true) :
    (s.markAttention m).notices.attention = s.notices.attention ||| BitVec.twoPow 32 m.val := by
  rw [markAttention_eq, if_pos h]
  split
  · rw [latch_notices]
  · rfl

/-- The tests an arrival or a loss ends with (05, R77, R79). -/
theorem testChange_eq (m : Fin 32) (previous : SlotClass) (s : State) : s.testChange m previous =
    let x := if triggers (s.config m) (s.box m) previous = true then s.trigger m else s
    if previous.degraded = false ∧ (s.box m).classSeen.degraded = true then x.markAttention m else x := by
  have hc (x : State) : (x.box m).classSeen = (s.box m).classSeen → x.degradedAttention m previous =
      if previous.degraded = false ∧ (s.box m).classSeen.degraded = true then x.markAttention m else x := by
    intro h
    simp [State.degradedAttention, h]
  have ht : (s.box m).triggered.classSeen = (s.box m).classSeen := by
    unfold Runtime.triggered
    split <;> rfl
  unfold State.testChange
  dsimp only
  split
  · exact hc (s.trigger m) (by rw [trigger_eq, ← ht]; simp [State.box])
  · exact hc _ rfl

/-- The tests at mailbox m, on the state the event's own updates have left (05, R77, R79, R85, R91). -/
theorem testChange_tested (m : Fin 32) (u s : State) (hc : s.config m = u.config m)
    (hl : s.live (counterB m) = u.live (counterB m))
    (hn : s.notices.attention.getLsbD m.val = u.notices.attention.getLsbD m.val) (hi : s.inFlight = u.inFlight) :
    State.tested m (s.box m) u (s.testChange m (u.box m).classSeen) := by
  have hg : (s.box m).triggered.generation = (s.box m).generation := by
    unfold Runtime.triggered
    split <;> rfl
  have hf : s.hasInFlight (Owner.isReportOf m) = u.hasInFlight (Owner.isReportOf m) := by
    simp only [State.hasInFlight, hi]
  rw [testChange_eq, hc]
  simp only [State.tested, State.marksAttention, ← triggers_iff]
  generalize hx : (if triggers (u.config m) (s.box m) (u.box m).classSeen = true then s.trigger m else s) = x
  have xbox : x.box m = if triggers (u.config m) (s.box m) (u.box m).classSeen = true then (s.box m).triggered else s.box m := by
    rw [← hx]
    split
    · rw [trigger_eq]
      simp [State.box]
    · rfl
  have xlive : x.live (counterB m) =
      if triggers (u.config m) (s.box m) (u.box m).classSeen = true ∧ (s.box m).state = .pending then
        satSucc (u.live (counterB m)) else u.live (counterB m) := by
    rw [← hx, ← hl]
    by_cases h1 : triggers (u.config m) (s.box m) (u.box m).classSeen = true
    · by_cases h2 : (s.box m).state = .pending
      · simp only [h1, h2, and_self, if_true, trigger_eq]
        exact count_live_self _ _
      · simp [h1, h2, trigger_eq, State.live]
    · simp [h1]
  have xnotices : x.notices = s.notices := by
    rw [← hx]
    split
    · rw [trigger_eq]
    · rfl
  have xconfig : x.config m = u.config m := by
    rw [← hx, ← hc]
    split
    · rw [trigger_eq]
      rfl
    · rfl
  have xplaced : triggers (u.config m) (s.box m) (u.box m).classSeen = true → (s.box m).state = .void ∨ (s.box m).state = .quiet →
      u.hasInFlight (Owner.isReportOf m) = false →
      ∃ e ∈ x.tx.queued, e.owner = .report m (s.box m).generation ∧ e.attempts = 0 := by
    intro h1 h2 h3
    rw [← hx, if_pos h1, trigger_eq]
    simp only [h2, hf, h3, and_self, if_true]
    exact ⟨_, mem_insertEntry.mpr (Or.inl rfl), rfl, rfl⟩
  have ybox (y : State) (hy : y = x ∨ y = x.markAttention m) : y.box m = x.box m ∧
      y.live (counterB m) = x.live (counterB m) ∧ ∀ e ∈ x.tx.queued, e ∈ y.tx.queued := by
    rcases hy with rfl | rfl
    · exact ⟨rfl, rfl, fun _ h => h⟩
    · exact ⟨by simp [State.box], by simp [State.live], fun _ => mem_markAttention _ _⟩
  obtain ⟨y1, y2, y3⟩ := ybox (if (u.box m).classSeen.degraded = false ∧ (s.box m).classSeen.degraded = true
    then x.markAttention m else x) (by split <;> simp)
  refine ⟨fun h => ?_, fun h => ?_, fun h => ?_, fun h => ?_, fun h1 h2 h3 => ?_, fun h => ?_, fun h => ?_⟩
  · rw [y1, xbox, if_pos h]
  · rw [y1, xbox, if_neg h]
  · rw [y2, xlive, if_pos h]
  · rw [y2, xlive, if_neg h]
  · obtain ⟨e, he, h4⟩ := xplaced h1 h2 h3
    exact ⟨e, y3 e he, h4⟩
  · rw [if_pos ⟨h.1, h.2.1⟩, markAttention_attention _ _ (xconfig ▸ h.2.2)]
    simp [m.isLt]
  · split
    · rename_i h'
      rw [markAttention_eq, if_neg (by rw [xconfig]; tauto), xnotices, hn]
    · rw [xnotices, hn]

/-! ### What an event at one mailbox leaves alone -/

/-- The tests at mailbox m touch that mailbox, counter 3m+1, attention bit m, the latched set and the queue alone. -/
structure OnlyMailbox (m : Fin 32) (s t : State) : Prop where
  frame : t = { s with
    boxes := t.boxes
    tx := { s.tx with queued := t.tx.queued }
    notices := { t.notices with enabled := s.notices.enabled, sequence := s.notices.sequence }
    counters := { s.counters with live := t.counters.live } }
  box : ∀ j : Fin 32, j ≠ m → t.box j = s.box j
  live : ∀ k : Fin 111, k ≠ counterB m → t.live k = s.live k
  attention : ∀ j : Fin 32, j ≠ m → t.notices.attention.getLsbD j.val = s.notices.attention.getLsbD j.val
  latched : ∀ c : Condition, c.isIn s.notices.latched = true → c.isIn t.notices.latched = true
  queued : ∀ e ∈ s.tx.queued, e ∈ t.tx.queued
  placed : ∀ e ∈ t.tx.queued, e ∈ s.tx.queued ∨ e.owner = .notice ∨ e.owner.isReportOf m = true

theorem OnlyMailbox.refl (m : Fin 32) (s : State) : OnlyMailbox m s s :=
  ⟨rfl, fun _ _ => rfl, fun _ _ => rfl, fun _ _ => rfl, fun _ h => h, fun _ h => h, fun _ h => Or.inl h⟩

theorem OnlyMailbox.trans {m : Fin 32} {s t u : State} (h : OnlyMailbox m s t) (g : OnlyMailbox m t u) :
    OnlyMailbox m s u where
  frame := by
    rw [g.frame, h.frame]
  box j hj := (g.box j hj).trans (h.box j hj)
  live k hk := (g.live k hk).trans (h.live k hk)
  attention j hj := (g.attention j hj).trans (h.attention j hj)
  latched c hc := g.latched c (h.latched c hc)
  queued e he := g.queued e (h.queued e he)
  placed e he := by
    rcases g.placed e he with h1 | h1
    · exact h.placed e h1
    · exact Or.inr h1

theorem offer_only (m : Fin 32) (s : State) : OnlyMailbox m s s.offer := by
  unfold State.offer
  (repeat' split)
  · exact ⟨rfl, fun _ _ => rfl, fun _ _ => rfl, fun _ _ => rfl, fun _ h => h, fun _ h => h, fun _ h => Or.inl h⟩
  · exact OnlyMailbox.refl m s
  · refine ⟨rfl, fun _ _ => rfl, fun _ _ => rfl, fun _ _ => rfl, fun _ h => h, fun e h => ?_, fun e h => ?_⟩
    · exact mem_insertEntry.mpr (Or.inr h)
    · rcases mem_insertEntry.mp h with rfl | h
      · exact Or.inr (Or.inl rfl)
      · exact Or.inl h

theorem latch_only (m : Fin 32) (c : Condition) (s : State) : OnlyMailbox m s (s.latch c) := by
  have hl : OnlyMailbox m s { s with notices := { s.notices with latched := s.notices.latched ||| c.bit } } :=
    ⟨rfl, fun _ _ => rfl, fun _ _ => rfl, fun _ _ => rfl, fun d h => by simp [Condition.isIn_or, h], fun _ h => h,
      fun _ h => Or.inl h⟩
  unfold State.latch
  dsimp only
  (repeat' split)
  · exact OnlyMailbox.refl m s
  · exact hl.trans (offer_only m _)
  · exact hl

theorem markAttention_only (m : Fin 32) (s : State) : OnlyMailbox m s (s.markAttention m) := by
  have hl : OnlyMailbox m s
      { s with notices := { s.notices with attention := s.notices.attention ||| BitVec.twoPow 32 m.val } } := by
    refine ⟨rfl, fun _ _ => rfl, fun _ _ => rfl, fun j hj => ?_, fun _ h => h, fun _ h => h, fun _ h => Or.inl h⟩
    have : m.val ≠ j.val := fun h => hj (Fin.ext h.symm)
    simp only [BitVec.getLsbD_or, BitVec.getLsbD_twoPow, this, decide_false, Bool.and_false, Bool.or_false]
  rw [markAttention_eq]
  (repeat' split)
  · exact hl.trans (latch_only m _ _)
  · exact hl
  · exact OnlyMailbox.refl m s

theorem trigger_only (m : Fin 32) (s : State) : OnlyMailbox m s (s.trigger m) := by
  rw [trigger_eq]
  refine ⟨?_, fun j hj => setBox_box_other hj _ _, fun k hk => ?_, fun _ _ => rfl, fun _ h => h, fun e h => ?_, fun e h => ?_⟩
  · dsimp only
    split <;> split <;> rfl
  · dsimp only [State.live]
    split
    · exact count_live_other hk s
    · rfl
  · dsimp only
    split
    · exact mem_insertEntry.mpr (Or.inr h)
    · exact h
  · dsimp only at h
    split at h
    · rcases mem_insertEntry.mp h with rfl | h
      · exact Or.inr (Or.inr (by simp [Owner.isReportOf]))
      · exact Or.inl h
    · exact Or.inl h

theorem testChange_only (m : Fin 32) (previous : SlotClass) (s : State) : OnlyMailbox m s (s.testChange m previous) := by
  rw [testChange_eq]
  dsimp only
  have h : OnlyMailbox m s (if triggers (s.config m) (s.box m) previous = true then s.trigger m else s) := by
    split
    · exact trigger_only m s
    · exact OnlyMailbox.refl m s
  split
  · exact h.trans (markAttention_only m _)
  · exact h

theorem setBox_only (m : Fin 32) (b : Runtime) (s : State) : OnlyMailbox m s (s.setBox m b) :=
  ⟨rfl, fun _ hj => setBox_box_other hj _ _, fun _ _ => rfl, fun _ _ => rfl, fun _ h => h, fun _ h => h, fun _ h => Or.inl h⟩

theorem classLost_only (m : Fin 32) (s : State) : OnlyMailbox m s (s.classLost m) :=
  (setBox_only m _ s).trans (testChange_only m _ _)

/-! ### Class LOST at a loss of lock (04, R71) -/

theorem reachedByLoss_iff (s : State) (m : Fin 32) : s.reachedByLoss m = true ↔ s.dependsOnLock m := by
  have h : s.active.listens m = true ↔ ∃ n : Fin 64, s.active.slots[n] = { role := .listen, mailbox := m } := by
    unfold Image.listens
    simp only [List.any_eq_true, List.mem_range, Bool.and_eq_true, decide_eq_true_eq, beq_iff_eq]
    constructor
    · rintro ⟨n, hn, h1, h2⟩
      simp only [Image.slot, hn, dif_pos] at h1 h2
      exact ⟨⟨n, hn⟩, by rw [← h1, ← h2]; rfl⟩
    · rintro ⟨n, h⟩
      refine ⟨n.val, n.isLt, ?_, ?_⟩ <;> simp only [Image.slot, n.isLt, dif_pos] <;>
        simp only [Fin.getElem_fin] at h <;> rw [h]
  simp only [State.reachedByLoss, State.dependsOnLock, Bool.and_eq_true, decide_eq_true_eq, h, and_assoc]

/-- Events at mailboxes touch the boxes, counters 3m+1, the attention set, the latched set and the queue alone. -/
structure OnlyMailboxes (s t : State) : Prop where
  frame : t = { s with
    boxes := t.boxes
    tx := { s.tx with queued := t.tx.queued }
    notices := { t.notices with enabled := s.notices.enabled, sequence := s.notices.sequence }
    counters := { s.counters with live := t.counters.live } }
  live : ∀ k : Fin 111, (∀ m : Fin 32, k ≠ counterB m) → t.live k = s.live k
  latched : ∀ c : Condition, c.isIn s.notices.latched = true → c.isIn t.notices.latched = true
  queued : ∀ e ∈ s.tx.queued, e ∈ t.tx.queued
  placed : ∀ e ∈ t.tx.queued, e ∈ s.tx.queued ∨ e.owner = .notice ∨ ∃ m, e.owner.isReportOf m = true

theorem OnlyMailboxes.refl (s : State) : OnlyMailboxes s s :=
  ⟨rfl, fun _ _ => rfl, fun _ h => h, fun _ h => h, fun _ h => Or.inl h⟩

theorem OnlyMailboxes.trans {s t u : State} (h : OnlyMailboxes s t) (g : OnlyMailboxes t u) : OnlyMailboxes s u where
  frame := by
    rw [g.frame, h.frame]
  live k hk := (g.live k hk).trans (h.live k hk)
  latched c hc := g.latched c (h.latched c hc)
  queued e he := g.queued e (h.queued e he)
  placed e he := by
    rcases g.placed e he with h1 | h1
    · exact h.placed e h1
    · exact Or.inr h1

theorem OnlyMailbox.mailboxes {m : Fin 32} {s t : State} (h : OnlyMailbox m s t) : OnlyMailboxes s t where
  frame := h.frame
  live k hk := h.live k (hk m)
  latched := h.latched
  queued := h.queued
  placed e he := by
    rcases h.placed e he with h1 | h1 | h1
    · exact Or.inl h1
    · exact Or.inr (Or.inl h1)
    · exact Or.inr (Or.inr ⟨m, h1⟩)

theorem OnlyMailboxes.inFlight {s t : State} (h : OnlyMailboxes s t) : t.inFlight = s.inFlight := by
  rw [h.frame]
  rfl

theorem OnlyMailboxes.active {s t : State} (h : OnlyMailboxes s t) : t.active = s.active := by
  rw [h.frame]

/-- Two states agree at mailbox m on all the tests there read and write. -/
structure SameAt (m : Fin 32) (s t : State) : Prop where
  box : t.box m = s.box m
  live : t.live (counterB m) = s.live (counterB m)
  attention : t.notices.attention.getLsbD m.val = s.notices.attention.getLsbD m.val

theorem OnlyMailbox.sameAt {m j : Fin 32} {s t : State} (h : OnlyMailbox m s t) (hj : j ≠ m) : SameAt j s t :=
  ⟨h.box j hj, h.live _ (by simp only [counterB, ne_eq, Fin.mk.injEq]; omega), h.attention j hj⟩

/-- The tests' outcome at mailbox m stands when what comes before and after touches other mailboxes alone. -/
theorem tested_between {m : Fin 32} {b : Runtime} {s s' t t' : State} (hs : OnlyMailboxes s s') (hsm : SameAt m s s')
    (h : State.tested m b s' t) (ht : OnlyMailboxes t t') (htm : SameAt m t t') : State.tested m b s t' := by
  have hc : s'.config m = s.config m := by simp only [State.config, hs.active]
  have hf : s'.hasInFlight (Owner.isReportOf m) = s.hasInFlight (Owner.isReportOf m) := by
    simp only [State.hasInFlight, hs.inFlight]
  simp only [State.tested, State.marksAttention, hc, hf, hsm.box, hsm.live, hsm.attention] at h
  simp only [State.tested, State.marksAttention, htm.box, htm.live, htm.attention]
  obtain ⟨h1, h2, h3, h4, h5, h6, h7⟩ := h
  refine ⟨h1, h2, h3, h4, fun a b c => ?_, h6, h7⟩
  obtain ⟨e, he, h8⟩ := h5 a b c
  exact ⟨e, ht.queued e he, h8⟩

theorem classLost_tested (m : Fin 32) (s : State) :
    State.tested m { s.box m with classSeen := .lost } s (s.classLost m) := by
  have h := testChange_tested m s (s.setBox m { s.box m with classSeen := .lost }) rfl rfl rfl rfl
  rw [setBox_box_self] at h
  exact h

/-- Class LOST over a list of mailboxes (04, R71). -/
theorem giveClassLost_list (l : List (Fin 32)) (hl : l.Nodup) (s : State) :
    let t := l.foldl (fun s m => if s.reachedByLoss m then s.classLost m else s) s
    OnlyMailboxes s t ∧ (∀ j, j ∉ l ∨ ¬ s.dependsOnLock j → SameAt j s t) ∧
      ∀ j ∈ l, s.dependsOnLock j → State.tested j { s.box j with classSeen := .lost } s t := by
  induction l generalizing s with
  | nil => exact ⟨OnlyMailboxes.refl s, fun _ _ => ⟨rfl, rfl, rfl⟩, by simp⟩
  | cons m l ih =>
    obtain ⟨hm, hl⟩ := List.nodup_cons.mp hl
    simp only [List.foldl_cons]
    generalize hx : (if s.reachedByLoss m = true then s.classLost m else s) = x
    have xonly : OnlyMailbox m s x := by
      rw [← hx]
      split
      · exact classLost_only m s
      · exact OnlyMailbox.refl m s
    have xdep (j : Fin 32) (hj : j ≠ m) : x.dependsOnLock j ↔ s.dependsOnLock j := by
      simp only [State.dependsOnLock, State.config, xonly.mailboxes.active, xonly.box j hj]
    obtain ⟨h1, h2, h3⟩ := ih hl x
    refine ⟨xonly.mailboxes.trans h1, fun j hj => ?_, fun j hj hd => ?_⟩
    · by_cases e : j = m
      · subst e
        have := h2 j (Or.inl hm)
        rcases hj with hj | hj
        · simp at hj
        · rw [if_neg (by rwa [reachedByLoss_iff])] at hx
          subst hx
          exact this
      · have g := h2 j (by
          rcases hj with hj | hj
          · exact Or.inl (fun h => hj (List.mem_cons_of_mem _ h))
          · exact Or.inr (fun h => hj ((xdep j e).mp h)))
        have g' := xonly.sameAt e
        exact ⟨g.box.trans g'.box, g.live.trans g'.live, g.attention.trans g'.attention⟩
    · by_cases e : j = m
      · subst e
        rw [if_pos ((reachedByLoss_iff _ _).mpr hd)] at hx
        refine tested_between (OnlyMailboxes.refl s) ⟨rfl, rfl, rfl⟩ ?_ h1 (h2 j (Or.inl hm))
        rw [← hx]
        exact classLost_tested j s
      · have hjl : j ∈ l := (List.mem_cons.mp hj).resolve_left e
        have := h3 j hjl ((xdep j e).mpr hd)
        rw [xonly.box j e] at this
        exact tested_between xonly.mailboxes (xonly.sameAt e) this (OnlyMailboxes.refl _) ⟨rfl, rfl, rfl⟩

theorem giveClassLost_gives (s : State) :
    State.givesClassLost s s.giveClassLost ∧ OnlyMailboxes s s.giveClassLost := by
  have h := giveClassLost_list allBoxes (List.nodup_finRange 32) s
  obtain ⟨t, ht⟩ : ∃ t, t = s.giveClassLost := ⟨_, rfl⟩
  rw [← ht]
  unfold State.giveClassLost at ht
  rw [← ht] at h
  obtain ⟨h1, h2, h3⟩ := h
  refine ⟨fun j => ⟨h3 j (List.mem_finRange j), fun hj => ?_⟩, h1⟩
  have h4 := h2 j (Or.inr hj)
  exact ⟨h4.box, h4.live, h4.attention⟩

end Sys2Proof.Machine
end

