-- ==== Sys2Proof/Laws/Settling.lean ====
section
/-! SUPPORT. The internal steps before an event are steps of the table: what an event has brought about is finished, and
the selections and takes that are possible are made (06, R99; 08, R128; log 3, log 5). -/

namespace Sys2Proof.Machine

/-! ### What is open is finished -/

/-- A restart that is due is performed. -/
def State.restarted (s : State) : State := if s.restartDue then s.performRestart else s

/-- The step a boundary waits for is taken by its row. -/
theorem exec_due {b : Boundary} {s : State} (h : s.boundary = some b) : exec b.due.command s = .next (s.takeDue b) := by
  cases hb : b.due <;>
    simp [DueStep.command, exec, execSwap, execSessionExpiry, execSnapshotIntervalExpiry, execNoticeRepeatExpiry,
      State.namedDue, h, hb]

theorem restarted_finishes {s : State} (h : s.boundary = none) : State.Finishes s s.restarted := by
  by_cases hr : s.restartDue = true
  · rw [State.restarted, if_pos hr]
    exact .restart h hr (by simp [exec, execRestartPerformed, h, hr])
  · rw [State.restarted, if_neg hr]
    exact .done h (Bool.not_eq_true _ ▸ hr)

/-- The rest of a boundary is run by the rows of the steps it waits for. -/
theorem continueBoundary_finishes (n : Byte) (cause : BoundaryCause) (order : BoundaryOrder) (s : State)
    (h : s.boundary = none) :
    State.Finishes (s.continueBoundary n cause order) (s.runBoundary n cause order).restarted := by
  induction order generalizing s with
  | nil =>
    show State.Finishes (s.closeBoundary cause) (s.closeBoundary cause).restarted
    exact restarted_finishes (by simp [h])
  | cons w rest ih =>
    have hw : (s.work w).1.boundary = none := by simp [h]
    rcases e : s.work w with ⟨t, d⟩
    rw [e] at hw
    cases d with
    | none =>
      simp only [State.continueBoundary, State.runBoundary, e]
      exact ih t hw
    | some d =>
      simp only [State.continueBoundary, State.runBoundary, e]
      refine .due rfl (exec_due rfl) ?_
      have ht : ({ t with boundary := none } : State) = t := by
        rw [← hw]
      simp only [State.takeDue, ht]
      exact ih _ (by simpa using hw)

theorem finish_eq (s : State) : s.finish = (match s.boundary with
    | none => s
    | some b => (State.performDue b.due b.number { s with boundary := none }).runBoundary b.number b.cause
        b.rest).restarted := rfl

/-- Finishing is done by rows of the table. -/
theorem finish_finishes (s : State) : State.Finishes s s.finish := by
  rw [finish_eq]
  cases hb : s.boundary with
  | none => exact restarted_finishes hb
  | some b => exact .due hb (exec_due hb) (continueBoundary_finishes _ _ _ _ (by simp))

/-- Nothing is left to finish of a finished part. -/
theorem finish_idem (s : State) : s.finish.finish = s.finish := by
  obtain ⟨h1, h2⟩ := finish_done s
  rw [finish_eq s.finish, h1]
  simp only [State.restarted, h2]
  rfl

/-! ### The waiting requests -/

theorem swapPending_requests (n : Byte) (s : State) : (s.swapPending n).engine.requests = s.engine.requests := by
  have reset : ∀ (old new : Image) (s : State), (s.resetAllChanged old new).engine.requests = s.engine.requests := by
    intro old new s
    unfold State.resetAllChanged
    refine foldl_keeps (f := fun s => s.engine.requests) ?_ _ _
    intro s m
    split
    · unfold State.resetChanged
      dsimp only
      split <;> simp
    · rfl
  unfold State.swapPending
  split
  · simp [State.swapCommit, State.closeSession, reset]
  · rfl

theorem performDue_requests (d : DueStep) (n : Byte) (s : State) :
    (s.performDue d n).engine.requests = s.engine.requests := by
  cases d with
  | swap => exact swapPending_requests n s
  | sessionExpiry => simp [State.performDue, State.expireSession, State.closeSession]
  | snapshotExpiry => simp [State.performDue]
  | repeatExpiry => simp [State.performDue, State.expireRepeat]

theorem work_requests (w : BoundaryWork) (s : State) : (s.work w).1.engine.requests = s.engine.requests := by
  cases w with
  | feedAgeing =>
    simp only [State.work]
    generalize allBoxes = l
    exact foldl_keeps (g := fun s m => State.ageFeed m s) (f := fun s => s.engine.requests) (fun s x => by simp) l s
  | reportAgeing =>
    simp only [State.work]
    generalize allBoxes = l
    exact foldl_keeps (g := fun s m => State.ageReport m s) (f := fun s => s.engine.requests) (fun s x => by simp) l s
  | session =>
    simp only [State.work]
    unfold State.sessionWork
    (repeat' split) <;> rfl
  | snapshotCount => simp [State.work]
  | noticeRepeat => simp [State.work]

theorem runBoundary_requests (n : Byte) (cause : BoundaryCause) (order : BoundaryOrder) (s : State) :
    (s.runBoundary n cause order).engine.requests = s.engine.requests := by
  induction order generalizing s with
  | nil => simp [State.runBoundary]
  | cons w rest ih =>
    have hw := work_requests w s
    rcases e : s.work w with ⟨t, d⟩
    rw [e] at hw
    cases d with
    | none =>
      simp only [State.runBoundary, e]
      rw [ih t]
      exact hw
    | some d =>
      simp only [State.runBoundary, e]
      rw [ih, performDue_requests]
      exact hw

theorem edit_requests {body : Request → State → Answer} (h : ∀ r s, (body r s).state.engine.requests = s.engine.requests)
    (n : Nat) (r : Request) (s : State) : (State.edit n body r s).state.engine.requests = s.engine.requests := by
  have := h r s.clearIdle
  unfold State.edit State.refuse
  dsimp only
  (repeat' split) <;> first | rfl | assumption

/-- No action of a request touches the requests that wait. -/
theorem act_requests (row : TakeRow) (r : Request) (s : State) : (row.act r s).engine.requests = s.engine.requests := by
  have answered : ∀ h : Request → State → Answer, (∀ r s, (h r s).state.engine.requests = s.engine.requests) →
      (State.answered h r s).engine.requests = s.engine.requests := fun h ha =>
    answered_keeps (f := fun s => s.engine.requests) (fun _ _ _ => rfl) (fun _ _ _ => rfl) (ha r) s
  cases row with
  | discover =>
    unfold TakeRow.act actDiscover
    dsimp only
    (repeat' split) <;> rfl
  | assign =>
    unfold TakeRow.act actAssign State.placeFreeReply
    dsimp only
    (repeat' split) <;> simp
  | restart =>
    unfold TakeRow.act actRestart
    dsimp only
    (repeat' split) <;> simp
  | commit =>
    unfold TakeRow.act actCommit
    dsimp only
    (repeat' split) <;> simp [State.clearIdle]
  | snapshot =>
    unfold TakeRow.act actSnapshot
    dsimp only
    split
    · simp
    · exact answered _ (fun r s => by simp [answerSnapshot, State.okay])
  | broadcastDiscard => simp [TakeRow.act, actBroadcastDiscard]
  | closeEdit => exact answered _ (edit_requests (fun r s => rfl) 2)
  | setMatch =>
    refine answered _ (edit_requests (fun r s => ?_) 8)
    unfold bodySetMatch State.okay State.refuse
    dsimp only
    (repeat' split) <;> rfl
  | setTiming =>
    refine answered _ (edit_requests (fun r s => ?_) 7)
    unfold bodySetTiming State.okay State.refuse
    dsimp only
    (repeat' split) <;> rfl
  | setSlot =>
    refine answered _ (edit_requests (fun r s => ?_) 5)
    unfold bodySetSlot State.okay State.refuse
    (repeat' split) <;> rfl
  | setProfile =>
    refine answered _ (edit_requests (fun r s => ?_) 5)
    unfold bodySetProfile State.okay State.refuse
    dsimp only
    (repeat' split) <;> rfl
  | setNoticeEnable =>
    refine answered _ (fun r s => ?_)
    unfold answerSetNoticeEnable State.okay State.refuse
    dsimp only
    (repeat' split) <;> simp
  | probe | resumeBus | readNotices | readAttention | unknownRequest => exact answered _ (fun r s => rfl)
  | readConfig | readMailboxPart0 | capture | readMailboxPart2 | readCounters | openEdit | cancel | ackNotices =>
    refine answered _ (fun r s => ?_)
    simp only [answerReadConfig, answerReadMailboxPart0, answerCapture, answerReadMailboxPart2, answerReadCounters,
      answerOpenEdit, answerCancel, answerAckNotices, State.okay, State.refuse]
    (repeat' split) <;> rfl

/-! ### The selections and the takes that are possible -/

/-- A bound on the steps left to a finished part. A restart being waited for shuts out the takes; it leaves no request,
but its notice to be selected. Else there are two for each waiting request, whose take may make a selection possible, and
the restart one of them may bring about. -/
def State.stepsLeft (s : State) : Nat :=
  let selections := if s.canSelect then 1 else 0
  if s.engine.waiting.isSome then 2 * selections
  else 2 * s.engine.requests.length + selections + if s.engine.requests = [] then 0 else 1

/-- A restart leaves no request waiting. -/
theorem performRestart_idle (s : State) :
    s.performRestart.engine.requests = [] ∧ s.performRestart.engine.waiting = none := ⟨rfl, rfl⟩

theorem restarted_requests (s : State) : s.restarted.engine.requests = s.engine.requests ∨ s.restarted.engine.requests = [] := by
  unfold State.restarted
  split
  · exact .inr (performRestart_idle s).1
  · exact .inl rfl

theorem finish_requests (s : State) : s.finish.engine.requests = s.engine.requests ∨ s.finish.engine.requests = [] := by
  rw [finish_eq]
  cases hb : s.boundary with
  | none => exact restarted_requests s
  | some b =>
    rcases restarted_requests ((State.performDue b.due b.number { s with boundary := none }).runBoundary b.number b.cause
      b.rest) with h | h
    · exact .inl (by rw [h, runBoundary_requests, performDue_requests])
    · exact .inr h

/-- After a selection the queue is empty or a frame is being sent. -/
theorem select_canSelect (s : State) : s.select.canSelect = false := by
  unfold State.select
  dsimp only
  split
  · rename_i hc
    unfold State.choose at hc
    split at hc
    · rename_i hq
      simp [State.canSelect, hq]
    · split at hc <;> simp at hc
  · simp [State.start, State.emitBus, State.canSelect]

/-- While no restart waits for a reply, a selection makes none due (08, R146). -/
theorem select_restartDue {s : State} (h : s.engine.waiting = none) : s.select.restartDue = s.restartDue := by
  have lost : ∀ (l : List Owner) (x : State), x.engine.waiting = none →
      (l.foldl (fun s o => s.loseReply o) x).restartDue = x.restartDue := by
    intro l
    induction l with
    | nil => exact fun x _ => rfl
    | cons o l ih =>
      intro x hx
      have h1 : (x.loseReply o).engine.waiting = none ∧ (x.loseReply o).restartDue = x.restartDue := by
        cases o <;> simp [State.loseReply, State.replyLeaves, State.setReply, State.count, hx]
      exact (ih _ h1.1).trans h1.2
  have hd : s.discard.restartDue = s.restartDue := by
    unfold State.discard
    split
    · exact lost _ _ h
    · split <;> rfl
  unfold State.select
  dsimp only
  split
  · exact hd
  · rw [← hd]
    unfold State.start State.ownerStarts
    dsimp only
    split <;> rfl

theorem restarted_eq (s : State) : s.restarted = s ∨ s.restarted = s.performRestart := by
  unfold State.restarted
  split
  · exact .inr rfl
  · exact .inl rfl

theorem finish_of_closed {s : State} (h : s.boundary = none) : s.finish = s.restarted := by
  rw [finish_eq, h]

theorem stepsLeft_performRestart (s : State) : s.performRestart.stepsLeft ≤ 1 := by
  obtain ⟨h1, h2⟩ := performRestart_idle s
  cases hc : s.performRestart.canSelect <;> simp [State.stepsLeft, h1, h2, hc]

/-- A selection leaves fewer steps. -/
theorem stepsLeft_select {s : State} (hs : s.canSelect = true) (hb : s.boundary = none) (hr : s.restartDue = false) :
    s.newEvent.select.finish.stepsLeft < s.stepsLeft := by
  have hb' : s.newEvent.select.boundary = none := by simp [hb]
  have hc := select_canSelect s.newEvent
  have he : s.newEvent.select.engine = s.engine := by simp
  rw [finish_of_closed hb']
  cases hw : s.engine.waiting with
  | some k =>
    have h2 : s.stepsLeft = 2 := by simp [State.stepsLeft, hw, hs]
    rw [h2]
    rcases restarted_eq s.newEvent.select with h | h
    · rw [h]
      simp [State.stepsLeft, hw, hc]
    · rw [h]
      have := stepsLeft_performRestart s.newEvent.select
      omega
  | none =>
    have hd : s.newEvent.select.restartDue = false := (select_restartDue (s := s.newEvent) hw).trans hr
    rw [State.restarted, if_neg (by simp [hd])]
    simp [State.stepsLeft, hw, hc, hs]

/-- A take leaves fewer steps. -/
theorem stepsLeft_take {row : TakeRow} {r : Request} {rest : List Request} {s : State} (hs : s.canSelect = false)
    (h : s.takes row r rest) (hb : s.boundary = none) : (row.act r (s.dequeue rest)).finish.stepsLeft < s.stepsLeft := by
  obtain ⟨h1, -, h3⟩ := h
  have hw : s.engine.waiting = none := by
    simp only [State.canTake, Bool.and_eq_true] at h3
    simpa using h3.1.2
  have h0 : s.stepsLeft = 2 * rest.length + 3 := by
    simp [State.stepsLeft, hw, hs, h1]
    omega
  have hq : (row.act r (s.dequeue rest)).engine.requests = rest := act_requests _ _ _
  rw [h0, finish_of_closed (by rw [(act_plain row r _).2.2.2.2.2.2.1]; exact hb)]
  rcases restarted_eq (row.act r (s.dequeue rest)) with h | h
  · rw [h]
    unfold State.stepsLeft
    rw [hq]
    dsimp only
    (repeat' split) <;> simp_all
  · rw [h]
    have := stepsLeft_performRestart (row.act r (s.dequeue rest))
    omega

/-- The take of the request at the head, by its row. -/
theorem exec_take {row : TakeRow} {r : Request} {rest : List Request} {s : State} (h : s.finish.takes row r rest) :
    exec row.command s = .next (row.act r (s.finish.dequeue rest)) := by
  cases row <;> exact congrArg Host.Outcome.next (take_of_takes h)

/-- With steps enough, every selection and take that is possible is made. -/
theorem settleBy_settles (n : Nat) : ∀ s : State, s.finish.stepsLeft ≤ n → State.Settles s (s.settleBy n) := by
  induction n with
  | zero =>
    intro s h
    unfold State.settleBy
    have hf := finish_finishes s
    generalize s.finish = t at *
    unfold State.stepsLeft at h
    have hs : t.canSelect = false := by
      cases hc : t.canSelect with
      | false => rfl
      | true =>
        rw [hc] at h
        dsimp only at h
        split at h <;> simp at h
    refine .done hf hs ?_
    cases hw : t.engine.waiting with
    | some k => simp [State.canTake, hw]
    | none =>
      have h1 : t.engine.requests = [] := by
        rw [hw] at h
        exact List.eq_nil_of_length_eq_zero (by dsimp only [Option.isSome] at h; rw [if_neg (by simp)] at h; omega)
      simp [State.canTake, h1]
  | succ n ih =>
    intro s h
    have hf := finish_finishes s
    have hi := finish_idem s
    obtain ⟨hb, hd⟩ := finish_done s
    unfold State.settleBy
    dsimp only
    generalize s.finish = t at *
    cases hs : t.canSelect with
    | true =>
      rw [if_pos rfl]
      refine .select hf hs (by simp [exec, execSelection, hi, hs]) (ih _ ?_)
      have := stepsLeft_select hs hb hd
      omega
    | false =>
      rw [if_neg (by simp)]
      cases ht : t.canTake with
      | false => exact .done hf hs ht
      | true =>
        rw [if_pos rfl]
        cases hr : t.engine.requests with
        | nil => simp [State.canTake, hr] at ht
        | cons r rest =>
          have hx : t.takes r.row r rest := ⟨hr, rfl, ht⟩
          refine .take hf hs hx (exec_take (by rw [hi]; exact hx)) ?_
          have hh : t.takeHead = r.row.act r (t.dequeue rest) := by simp [State.takeHead, hr]
          rw [hi, ← hh]
          refine ih _ ?_
          have := stepsLeft_take hs hx hb
          rw [← hh] at this
          omega

/-- Before a later event finds the part, every selection and take that is possible has been made (06, R99; 08, R128). -/
theorem settle_settles (s : State) : State.Settles s s.settle := by
  refine settleBy_settles _ s ?_
  have h : s.finish.stepsLeft ≤ 2 * s.finish.engine.requests.length + 2 := by
    unfold State.stepsLeft
    dsimp only
    (repeat' split) <;> omega
  rcases finish_requests s with h1 | h1 <;> rw [h1] at h
  · omega
  · simp at h
    omega

end Sys2Proof.Machine
end

