-- ==== Sys2Proof/Laws/Swap.lean ====
section
/-! SUPPORT. What a swap finds changed, and what it makes of a changed mailbox and of every other (01, R12; 09, R168). -/

namespace Sys2Proof.Machine

/-- The entries that bind mailbox m, read from the list and from the entries (01, R12). -/
theorem mem_bindings (i : Image) (m : Fin 32) (n : Fin 64) (r : SlotRole) :
    (n.val, r) ∈ i.bindings m ↔ i.names n m = some r := by
  unfold Image.bindings allSlots Image.names Image.binds
  simp only [List.mem_filterMap, List.mem_range, Option.ite_none_right_eq_some, Option.some.injEq, Prod.mk.injEq,
    Bool.and_eq_true, decide_eq_true_eq, beq_iff_eq]
  constructor
  · rintro ⟨k, hk, h1, rfl, h2⟩
    rw [Image.slot_fin] at h1 h2
    exact ⟨h1, h2⟩
  · rintro ⟨h1, h2⟩
    refine ⟨n.val, n.isLt, ?_, rfl, ?_⟩ <;> rw [Image.slot_fin] <;> assumption

theorem bindings_eq_iff (old new : Image) (m : Fin 32) :
    old.bindings m = new.bindings m ↔ ∀ n : Fin 64, old.names n m = new.names n m := by
  constructor
  · intro h n
    apply Option.ext
    intro r
    rw [← mem_bindings, ← mem_bindings, h]
  · intro h
    unfold Image.bindings allSlots
    apply List.filterMap_congr
    intro k hk
    have := h ⟨k, List.mem_range.mp hk⟩
    unfold Image.names at this
    simp only [← Image.slot_fin] at this
    simpa [Image.binds] using congrArg (Option.map (fun r => (k, r))) this

/-- The comparison of R12. -/
theorem changedBox_iff (old new : Image) (m : Fin 32) : changedBox old new m = true ↔ old.changes new m := by
  unfold changedBox Image.changes
  simp only [Bool.or_eq_true, decide_eq_true_eq, ne_eq, bindings_eq_iff, not_forall]

/-- What a swap makes of a mailbox it finds changed (01, R12; 09, R168). -/
structure IsReset (m : Fin 32) (s t : State) : Prop where
  box : t.box m = { Runtime.reset with generation := (s.box m).generation + 1 }
  a : t.live (counterA m) = 0
  b : t.live (counterB m) = 0
  c : t.live (counterC m) = 0
  attention : t.notices.attention.getLsbD m.val = false
  queued : ∀ x ∈ t.tx.queued, x.owner.isReportOf m = false
  hold : s.engine.hold.mailbox = m → t.engine.hold.valid = false

/-- What it leaves of any other. -/
structure IsKept (m : Fin 32) (s t : State) : Prop where
  box : t.box m = s.box m
  a : t.live (counterA m) = s.live (counterA m)
  b : t.live (counterB m) = s.live (counterB m)
  c : t.live (counterC m) = s.live (counterC m)
  attention : t.notices.attention.getLsbD m.val = s.notices.attention.getLsbD m.val
  queued : ∀ x ∈ s.tx.queued, x.owner.isReportOf m = true → x ∈ t.tx.queued
  hold : s.engine.hold.mailbox = m → t.engine.hold.valid = s.engine.hold.valid

theorem IsKept.refl (m : Fin 32) (s : State) : IsKept m s s := ⟨rfl, rfl, rfl, rfl, rfl, fun _ h _ => h, fun _ => rfl⟩

/-- What the resets of a swap leave alone. -/
structure OnlyResets (s t : State) : Prop where
  frame : t = { s with
    boxes := t.boxes
    tx := { s.tx with queued := t.tx.queued }
    engine := { s.engine with hold := { s.engine.hold with valid := t.engine.hold.valid } }
    notices := { s.notices with attention := t.notices.attention }
    counters := { s.counters with live := t.counters.live } }
  live : ∀ k : Fin 111, 96 ≤ k.val → t.live k = s.live k
  queued : ∀ x ∈ t.tx.queued, x ∈ s.tx.queued

theorem OnlyResets.refl (s : State) : OnlyResets s s := ⟨rfl, fun _ _ => rfl, fun _ h => h⟩

theorem OnlyResets.trans {s t u : State} (h : OnlyResets s t) (g : OnlyResets t u) : OnlyResets s u where
  frame := by
    rw [g.frame, h.frame]
  live k hk := (g.live k hk).trans (h.live k hk)
  queued x hx := h.queued x (g.queued x hx)

theorem OnlyResets.holdMailbox {s t : State} (h : OnlyResets s t) : t.engine.hold.mailbox = s.engine.hold.mailbox := by
  rw [h.frame]

theorem zeroLive_live (k j : Fin 111) (s : State) : (s.zeroLive k).live j = if j = k then 0 else s.live j := by
  simp only [State.live, State.zeroLive, Fin.getElem_fin, Vector.getElem_set, Fin.ext_iff, eq_comm]

theorem clearAttention_bit (m j : Fin 32) (s : State) : (s.clearAttention m).notices.attention.getLsbD j.val =
    if j = m then false else s.notices.attention.getLsbD j.val := by
  have hm := m.isLt
  have hj := j.isLt
  simp only [State.clearAttention, BitVec.getLsbD_and, BitVec.getLsbD_not, BitVec.getLsbD_twoPow]
  by_cases h : j = m
  · simp [h]
  · have : m.val ≠ j.val := fun e => h (Fin.ext e.symm)
    simp [h, this]

/-- The reset of one mailbox. -/
theorem resetChanged_spec (m : Fin 32) (s : State) :
    IsReset m s (s.resetChanged m) ∧ (∀ j, j ≠ m → IsKept j s (s.resetChanged m)) ∧ OnlyResets s (s.resetChanged m) := by
  let x : State := (((((s.setBox m { Runtime.reset with generation := (s.box m).generation + 1 }).zeroLive
    (counterA m)).zeroLive (counterB m)).zeroLive (counterC m)).clearAttention m).dropQueued (Owner.isReportOf m)
  have hx : s.resetChanged m = { x with engine := { x.engine with hold := { x.engine.hold with
      valid := if s.engine.hold.mailbox = m then false else s.engine.hold.valid } } } := by
    show (if s.engine.hold.mailbox = m then _ else x) = _
    split
    · rfl
    · rfl
  have box (j : Fin 32) : (s.resetChanged m).box j =
      if j = m then { Runtime.reset with generation := (s.box m).generation + 1 } else s.box j := by
    rw [hx]
    exact setBox_box m j _ s
  have live (k : Fin 111) : (s.resetChanged m).live k =
      if k = counterC m then 0 else if k = counterB m then 0 else if k = counterA m then 0 else s.live k := by
    rw [hx]
    show (State.zeroLive (counterC m) _).live k = _
    rw [zeroLive_live, zeroLive_live, zeroLive_live]
    rfl
  have att (j : Fin 32) : (s.resetChanged m).notices.attention.getLsbD j.val =
      if j = m then false else s.notices.attention.getLsbD j.val := by
    rw [hx]
    exact clearAttention_bit m j _
  have queued : (s.resetChanged m).tx.queued = s.tx.queued.filter (fun e => !e.owner.isReportOf m) := by
    rw [hx]
    rfl
  have hold : (s.resetChanged m).engine.hold.valid = if s.engine.hold.mailbox = m then false else s.engine.hold.valid := by
    rw [hx]
  have num (j : Fin 32) (h : j ≠ m) : (j.val ≠ m.val) := fun e => h (Fin.ext e)
  refine ⟨⟨?_, ?_, ?_, ?_, ?_, ?_, ?_⟩, fun j hj => ⟨?_, ?_, ?_, ?_, ?_, ?_, ?_⟩, ?_, ?_, ?_⟩
  · rw [box, if_pos rfl]
  · rw [live]
    simp
  · rw [live]
    simp
  · rw [live]
    simp
  · rw [att, if_pos rfl]
  · intro e he
    rw [queued] at he
    simpa using (List.mem_filter.mp he).2
  · intro h
    rw [hold, if_pos h]
  · rw [box, if_neg hj]
  · rw [live]
    have := num j hj
    simp only [counterA, counterB, counterC, Fin.mk.injEq]
    rw [if_neg (by omega), if_neg (by omega), if_neg (by omega)]
  · rw [live]
    have := num j hj
    simp only [counterA, counterB, counterC, Fin.mk.injEq]
    rw [if_neg (by omega), if_neg (by omega), if_neg (by omega)]
  · rw [live]
    have := num j hj
    simp only [counterA, counterB, counterC, Fin.mk.injEq]
    rw [if_neg (by omega), if_neg (by omega), if_neg (by omega)]
  · rw [att, if_neg hj]
  · intro e he ho
    rw [queued, List.mem_filter]
    refine ⟨he, ?_⟩
    cases h : e.owner with
    | report k g =>
      rw [h] at ho
      simp only [Owner.isReportOf, beq_iff_eq] at ho
      simpa [Owner.isReportOf, ho] using hj
    | reply k => rfl
    | notice => rfl
    | discovery => rfl
  · intro h
    rw [hold, if_neg (by rw [h]; exact hj)]
  · rw [hx]
    rfl
  · intro k hk
    rw [live]
    simp only [counterA, counterB, counterC, Fin.ext_iff]
    rw [if_neg (by omega), if_neg (by omega), if_neg (by omega)]
  · intro e he
    rw [queued] at he
    exact (List.mem_filter.mp he).1

/-- The resets over a list of mailboxes. -/
theorem resetAllChanged_list (old new : Image) (l : List (Fin 32)) (hl : l.Nodup) (s : State) :
    let t := l.foldl (fun s m => if changedBox old new m then s.resetChanged m else s) s
    (∀ m ∈ l, changedBox old new m = true → IsReset m s t) ∧
      (∀ m, m ∉ l ∨ changedBox old new m = false → IsKept m s t) ∧ OnlyResets s t := by
  induction l generalizing s with
  | nil => exact ⟨by simp, fun m _ => IsKept.refl m s, OnlyResets.refl s⟩
  | cons m l ih =>
    obtain ⟨hm, hl⟩ := List.nodup_cons.mp hl
    simp only [List.foldl_cons]
    generalize hx : (if changedBox old new m = true then s.resetChanged m else s) = x
    have xkept (j : Fin 32) (hj : j ≠ m ∨ changedBox old new m = false) : IsKept j s x := by
      rw [← hx]
      split
      · rename_i h
        exact (resetChanged_spec m s).2.1 j (hj.resolve_right (by simp [h]))
      · exact IsKept.refl j s
    have xonly : OnlyResets s x := by
      rw [← hx]
      split
      · exact (resetChanged_spec m s).2.2
      · exact OnlyResets.refl s
    obtain ⟨h1, h2, h3⟩ := ih hl x
    refine ⟨fun j hj hc => ?_, fun j hj => ?_, xonly.trans h3⟩
    · by_cases e : j = m
      · subst e
        rw [if_pos hc] at hx
        obtain ⟨a1, a2, a3, a4, a5, a6, a7⟩ := (resetChanged_spec j s).1
        rw [hx] at a1 a2 a3 a4 a5 a6 a7
        obtain ⟨b1, b2, b3, b4, b5, b6, b7⟩ := h2 j (Or.inl hm)
        exact ⟨b1.trans a1, b2.trans a2, b3.trans a3, b4.trans a4, b5.trans a5, fun e he => a6 e (h3.queued e he),
          fun h => (b7 (xonly.holdMailbox.trans h)).trans (a7 h)⟩
      · obtain ⟨b1, b2, b3, b4, b5, b6, b7⟩ := h1 j ((List.mem_cons.mp hj).resolve_left e) hc
        rw [(xkept j (Or.inl e)).box] at b1
        exact ⟨b1, b2, b3, b4, b5, b6, fun h => b7 (xonly.holdMailbox.trans h)⟩
    · have hk : IsKept j s x := xkept j (by
        rcases hj with h | h
        · exact Or.inl (fun e => h (by simp [e]))
        · by_cases e : j = m
          · subst e
            exact Or.inr h
          · exact Or.inl e)
      obtain ⟨a1, a2, a3, a4, a5, a6, a7⟩ := hk
      obtain ⟨b1, b2, b3, b4, b5, b6, b7⟩ := h2 j (by
        rcases hj with h | h
        · exact Or.inl (fun e => h (List.mem_cons_of_mem m e))
        · exact Or.inr h)
      exact ⟨b1.trans a1, b2.trans a2, b3.trans a3, b4.trans a4, b5.trans a5, fun e he ho => b6 e (a6 e he ho) ho,
        fun h => (b7 (xonly.holdMailbox.trans h)).trans (a7 h)⟩

/-- The resets of a swap (09, R168). -/
theorem resetAllChanged_spec (old new : Image) (s : State) :
    (∀ m, old.changes new m → IsReset m s (s.resetAllChanged old new)) ∧
      (∀ m, ¬ old.changes new m → IsKept m s (s.resetAllChanged old new)) ∧
      OnlyResets s (s.resetAllChanged old new) := by
  have h := resetAllChanged_list old new allBoxes (List.nodup_finRange 32) s
  obtain ⟨t, ht⟩ : ∃ t, t = s.resetAllChanged old new := ⟨_, rfl⟩
  rw [← ht]
  unfold State.resetAllChanged at ht
  rw [← ht] at h
  obtain ⟨h1, h2, h3⟩ := h
  refine ⟨fun m hm => h1 m (List.mem_finRange m) ((changedBox_iff _ _ _).mpr hm), fun m hm => h2 m (Or.inr ?_), h3⟩
  rw [← changedBox_iff] at hm
  simpa using hm

end Sys2Proof.Machine
end

