-- ==== Sys2Proof/Tests/Slice0.lean ====
section
/-! SUPPORT. Tests: well-formed and ill-formed commands, one step of every command on a small state, and for every
statement with hypotheses a witness that meets them. -/

namespace Sys2Proof.Tests

open Sys2Proof.Machine

set_option Elab.async false

/-! ### The check of operands -/

theorem test_wf_frame : Instr.wf (.frameArrival 0 (.good { id := 0x120, lengthCode := 2, data := [1, 2] })) = true := by
  decide

theorem test_wf_frame_code_above_8 : Instr.wf (.frameArrival 0 (.good
    { id := 0x120, lengthCode := 15, data := [1, 2, 3, 4, 5, 6, 7, 8] })) = true := by decide

theorem test_wf_frame_short : Instr.wf (.frameArrival 0 (.good
    { id := 0x120, lengthCode := 3, data := [1, 2] })) = false := by decide

theorem test_wf_frame_long : Instr.wf (.frameArrival 0 (.good
    { id := 0x120, lengthCode := 1, data := [1, 2] })) = false := by decide

theorem test_wf_orders : Instr.wf (.roundTimerExpiry BoundaryOrder.standard) = true ∧
    Instr.wf (.localRoundTimerExpiry [.noticeRepeat, .session, .feedAgeing, .snapshotCount, .reportAgeing]) = true := by
  decide

theorem test_wf_order_missing_work : Instr.wf (.roundTimerExpiry [.feedAgeing, .reportAgeing, .session]) = false := by
  decide

theorem test_wf_order_work_twice : Instr.wf (.localRoundTimerExpiry
    [.feedAgeing, .feedAgeing, .reportAgeing, .session, .snapshotCount]) = false := by decide

theorem test_wf_mark_order : Instr.wf (.roundMarkArrival 0 (markOf 1 8) []) = false := by decide

theorem test_wf_pins : Instr.wf (.nresetRelease 0 ⟨true, false⟩) = true := by decide

/-! ### Small states -/

/-- A serial for the tests. -/
def serial : Vector (BitVec 8) 6 := #v[1, 2, 3, 4, 5, 6]

/-- A configured, running part at time 0: node 5, nothing queued. -/
def part : State :=
  { State.reset with
    tx := { State.reset.tx with queued := [] }
    engine := { State.reset.engine with node := 5, serial := serial } }

/-- The part with a node-addressed request at the head of the request queue. -/
def asked (bytes : List Byte) : State :=
  { part with engine := { part.engine with requests := [{ broadcast := false, data := bytes }] } }

/-- The part with a broadcast request at the head of the request queue. -/
def called (bytes : List Byte) : State :=
  { part with engine := { part.engine with requests := [{ broadcast := true, data := bytes }] } }

/-- The state after one step on a command. -/
def after (c : Instr) (s : State) : State :=
  match step { s with pending := [c] } with
  | .next t => t
  | .fault _ => s
  | .refused _ => s

/-- The reply entry 0 with its first three bytes and data. -/
def answer (c : Instr) (s : State) : List Byte := replyData ((after c s).reply 0).content

/-- Mailbox 0 a FEED mailbox for identifier 0x120, mailbox 1 a REPORT mailbox of identifier 0x300, both with attention;
slot 0 drives the first, slot 1 listens for the second. -/
def image : Image :=
  { boxes := (Image.default.boxes.set 0
        { MailboxConfig.default with
          kind := .feed, identifier := 0x120, mask := 0xFFF, limit := 2, attention := true }).set 1
        { MailboxConfig.default with
          kind := .report, identifier := 0x300, length := 2, changeMask := 3, limit := 4, attention := true }
    slots := (Image.default.slots.set 0 { role := .drive, mailbox := 0 }).set 1 { role := .listen, mailbox := 1 }
    profile := { Profile.default with slotCount := .c8 } }

/-- The part with that image in force. -/
def set : State := { part with active := image, staging := image }

/-- A frame of the part's own in flight, of the owner given. -/
def sending (o : Owner) (attempts : Nat) (s : State) : State :=
  { s with bus := { s.bus with
      line := .sending
      flight := some (.attempt { owner := o, stamp := 8, attempts := attempts } (frameOf (s.identifier o) [])) } }

/-- Another node's frame being received. -/
def receiving (s : State) : State := { s with bus := { s.bus with line := .receiving } }

/-- A follower LOCKED on a ring of 640 microseconds, the next mark, number 8, expected at 500. -/
def locked (s : State) : State :=
  { s with ring := { s.ring with
      lock := .locked, reference := some { number := 6, time := 0 }, period := some 640, expected := some 500
      expectedNumber := 8, timer := none } }

/-- A master whose round timer expires at 1000 microseconds. -/
def master : State :=
  { set with
    active := { image with profile := { image.profile with role := .master, snapshotInterval := 0 } }
    ring := { set.ring with emitted := [4, 5], current := 5 } }

/-- A follower receiving slot n of an accepted round of 8 slots, the slot under way or not. -/
def inSlot (n : Nat) (started : Bool) (use : RoundUse) (s : State) : State :=
  { s with ring := { s.ring with
      inRound := some { slots := 8, arrived := n, started := started, driven := none, use := use } } }

/-- A boundary of number 9 whose next step is due. -/
def due (d : DueStep) (s : State) : State :=
  { s with boundary := some { number := 9, cause := .localTimer, due := d, rest := [] } }

/-- An open session of owner 7. -/
def editing (s : State) : State := { s with engine := { s.engine with owner := some 7, idle := 3 } }

/-- A commit pending, with reply entry 3 reserved. -/
def frozen (s : State) : State :=
  { editing s with
    tx := { s.tx with replies := s.tx.replies.set 3 { status := .reserved, content := ReplyEntry.blank.content } }
    engine := { (editing s).engine with commit := some { tag := 7, entry := 3 } } }

/-- A good slot in state FRESH with the data bytes 1, 2. -/
def goodSlot : SlotBytes := slotOf 1 2 #v[1, 2, 0, 0, 0, 0, 0, 0]

/-- A traffic frame for mailbox 0. -/
def traffic : Frame := { id := 0x120, lengthCode := 2, data := [9, 8] }

/-! ### One step of every command -/

theorem test_powerOn : (after (.powerOn 3 ⟨true, false⟩ true) set).bus.rate = .k500 ∧
    (after (.powerOn 3 ⟨true, false⟩ true) set).bus.unheard = true ∧
    (after (.powerOn 3 ⟨true, false⟩ true) set).engine.node = 0 := by decide +kernel

theorem test_powerOn_asserted : (after (.powerOn 3 ⟨true, false⟩ false) { set with held := true }).held = true ∧
    (after (.powerOn 3 ⟨true, false⟩ false) { set with held := true }).ring.timer = none ∧
    (after (.nresetRelease 4 ⟨false, true⟩)
      (after (.powerOn 3 ⟨true, false⟩ false) { set with held := true })).bus.rate = .k250 := by decide +kernel

theorem test_nresetAssert : (after (.nresetAssert 0) (sending .notice 0 part)).btx = [.cut] ∧
    (after (.nresetAssert 0) part).held = true := by decide +kernel

theorem test_nresetRelease : (after (.nresetRelease 5 ⟨false, true⟩) { set with held := true }).bus.rate = .k250 ∧
    (after (.nresetRelease 5 ⟨false, true⟩) { set with held := true }).ring.timer =
      some { period := 1000, next := 16 * 1005 } := by decide +kernel

theorem test_frameStart : (after (.frameStart 0) part).bus.line = .receiving := by decide +kernel

theorem test_frameArrival : ((after (.frameArrival 0 (.good traffic)) (receiving set)).box 0).state = .fresh ∧
    ((after (.frameArrival 0 (.good traffic)) (receiving set)).box 0).data = #v[9, 8, 0, 0, 0, 0, 0, 0] ∧
    (after (.frameArrival 0 (.good traffic)) (receiving set)).live 0 = 1 := by decide +kernel

theorem test_frameArrival_request : (after (.frameArrival 0 (.good { id := 0xF05, lengthCode := 2, data := [1, 7] }))
    (receiving part)).engine.requests = [{ broadcast := false, data := [1, 7] }] := by decide +kernel

/-- A part with a report entry and a notice queued. -/
def queued : State := (set.placeReport 1).newEvent.place .notice

theorem test_selection : (after .selection queued).btx = [.frame { id := 0x300, lengthCode := 2, data := [0, 0] }] ∧
    ((after .selection queued).box 1).state = .sending := by decide +kernel

theorem test_selection_node_zero : (after .selection
    { part.place .notice with engine := { part.engine with node := 0 } }).tx.queued = [] := by decide +kernel

theorem test_arbitrationLost : (after (.arbitrationLost 0 1) (sending .notice 3 part)).tx.queued =
      [{ owner := .notice, stamp := 8, attempts := 3 }] ∧
    (after (.arbitrationLost 0 1) (sending .notice 3 part)).bus.line = .receiving := by decide +kernel

theorem test_transmitError : (after (.transmitError 0) (sending .notice 3 part)).tx.queued =
    [{ owner := .notice, stamp := 8, attempts := 4 }] := by decide +kernel

theorem test_transmitError_last : (after (.transmitError 0) (sending (.report 1 0) 7 set)).live 105 = 1 ∧
    ((after (.transmitError 0) (sending (.report 1 0) 7 set)).box 1).state = .quiet := by decide +kernel

theorem test_completion : ((after (.completion 0) (sending (.report 1 0) 0 set)).box 1).state = .quiet ∧
    (after (.completion 0) (sending (.report 1 0) 0 set)).live 3 = 1 := by decide +kernel

/-- A finishing frame on the bus. -/
def finishing : State := { part with bus := { part.bus with line := .sending, flight := some (.finishing traffic) } }

theorem test_finishingFrameOutcome : (after (.finishingFrameOutcome 0 .completion) finishing).bus = part.bus := by
  decide +kernel

theorem test_roundMarkArrival : (after (.roundMarkArrival 2 (markOf 7 8) BoundaryOrder.standard) set).ring.reference =
    some { number := 7, time := 2 } := by decide +kernel

theorem test_roundMarkArrival_accepted : (after (.roundMarkArrival 500 (markOf 8 8) BoundaryOrder.standard)
      (locked set)).ring.current = 8 ∧
    (after (.roundMarkArrival 500 (markOf 8 8) BoundaryOrder.standard) (locked set)).rout = [.mark (markOf 8 8)] := by
  decide +kernel

theorem test_windowClose : (after .windowClose (locked set)).ring.expected = some 1140 ∧
    (after .windowClose (locked set)).now = 16 * 500 + 640 := by decide +kernel

theorem test_windowClose_bound : after (.roundMarkArrival 540 (markOf 8 8) BoundaryOrder.standard)
      (after .windowClose (locked set)) = after .windowClose (locked set) ∧
    (after (.roundMarkArrival 540 (markOf 8 8) BoundaryOrder.standard) (locked set)).ring.current = 8 := by
  decide +kernel

theorem test_incomingSlotStart : (after (.incomingSlotStart 0) (inSlot 0 false .follow set)).ring.inRound.map
    (fun r => r.driven.isSome) = some true := by decide +kernel

theorem test_slotArrival : ((after (.slotArrival 0 goodSlot) (inSlot 1 true .follow set)).box 1).classSeen = .live ∧
    ((after (.slotArrival 0 goodSlot) (inSlot 1 true .follow set)).box 1).state = .pending := by decide +kernel

theorem test_slotArrival_bad : (after (.slotArrival 0 { goodSlot with check := 0 }) (inSlot 1 true .follow set)).live 98 =
    1 := by decide +kernel

theorem test_roundTimerExpiry : (after (.roundTimerExpiry BoundaryOrder.standard) master).ring.outRound =
      some { start := 16000, slots := 8, next := 0, mark := markOf 6 8, sending := none } ∧
    (after (.roundTimerExpiry BoundaryOrder.standard) master).ring.emitted = [4, 5, 6] := by decide +kernel

theorem test_roundTimerExpiry_cut : (after (.nresetAssert 1002)
      (after (.roundTimerExpiry BoundaryOrder.standard) master)).rout = [.partialMark] ∧
    (after (.nresetAssert 1003) (after (.roundTimerExpiry BoundaryOrder.standard) master)).rout =
      [.mark (markOf 6 8), .partialSlot 0] := by decide +kernel

theorem test_localRoundTimerExpiry : (after (.localRoundTimerExpiry BoundaryOrder.standard) set).ring.current = 1 ∧
    (after (.localRoundTimerExpiry BoundaryOrder.standard) set).ring.timer = some { period := 1000, next := 32000 } := by
  decide +kernel

theorem test_swap : (after .swap (due .swap (frozen { part with staging := image }))).active = image ∧
    ((after .swap (due .swap (frozen { part with staging := image }))).box 1).generation = 1 ∧
    replyData ((after .swap (due .swap (frozen { part with staging := image }))).reply 3).content = [14, 7, 0, 9] := by
  decide +kernel

theorem test_sessionExpiry : (after .sessionExpiry (due .sessionExpiry (editing { part with staging := image }))).staging =
    Image.default := by decide +kernel

theorem test_snapshotIntervalExpiry : (after .snapshotIntervalExpiry (due .snapshotExpiry
      (part.count Counter.goodFrames))).counters.snap[101] = 1 ∧
    (after .snapshotIntervalExpiry (due .snapshotExpiry part)).counters.sequence = 1 := by decide +kernel

theorem test_noticeRepeatExpiry : (after .noticeRepeatExpiry (due .repeatExpiry part)).hasQueued Owner.isNotice = true := by
  decide +kernel

theorem test_restartPerformed : (after .restartPerformed { set with restartDue := true }).active = Image.default ∧
    (after .restartPerformed { set with restartDue := true }).engine.node = 5 := by decide +kernel

theorem test_probe : answer .probe (asked [1, 9]) = [1, 9, 0, 0x21, 0, 0, 0, 16] := by decide +kernel

theorem test_discover : (after .discover (called [2, 0, 1])).tx.queued.map (fun e => e.owner) = [.discovery] ∧
    (after .discover (called [2, 0, 0])).tx.queued = [] := by decide +kernel

theorem test_assign : (after .assign (called [3, 9, 1, 2, 3, 4, 5, 6])).engine.node = 9 ∧
    answer .assign (called [3, 9, 1, 2, 3, 4, 5, 6]) = [3, 0, 0] ∧
    (after .assign (called [3, 9, 1, 2, 3, 4, 5, 7])).engine.node = 5 := by decide +kernel

theorem test_readConfig : answer .readConfig (asked [0x10, 1, 1, 2, 3, 0]) = [0x10, 1, 0, 0x03, 0xE8] ∧
    answer .readConfig (asked [0x10, 1, 1, 2, 10, 0]) = [0x10, 1, 4] := by decide +kernel

theorem test_readMailboxPart0 : answer .readMailboxPart0 (asked [0x11, 1, 0, 0]) = [0x11, 1, 0, 0, 0, 0, 0, 0] ∧
    answer .readMailboxPart0 (asked [0x11, 1, 32, 0]) = [0x11, 1, 4] := by decide +kernel

theorem test_capture : (after .capture (asked [0x11, 1, 4, 1])).engine.hold.valid = true ∧
    (after .capture (asked [0x11, 1, 4, 1])).engine.hold.mailbox = 4 := by decide +kernel

theorem test_readMailboxPart2 : answer .readMailboxPart2 (asked [0x11, 1, 4, 2]) = [0x11, 1, 0x0A] := by decide +kernel

theorem test_readCounters : answer .readCounters (asked [0x12, 1, 110]) = [0x12, 1, 0, 0, 0, 0, 0, 0] ∧
    answer .readCounters (asked [0x12, 1, 111]) = [0x12, 1, 4] := by decide +kernel

theorem test_resumeBus : answer .resumeBus (asked [0x18, 1]) = [0x18, 1, 0] := by decide +kernel

theorem test_restart : (after .restart (asked [0x1F, 1])).engine.waiting = some 0 ∧
    (after .restart { asked [0x1F, 1] with bus := { part.bus with port := .silent } }).restartDue = true := by
  decide +kernel

theorem test_openEdit : (after .openEdit (asked [8, 7])).engine.owner = some 7 ∧
    answer .openEdit (editing (asked [8, 6])) = [8, 6, 3, 7] := by decide +kernel

theorem test_closeEdit : (after .closeEdit (editing { asked [9, 7] with staging := image })).staging = Image.default ∧
    answer .closeEdit (asked [9, 7]) = [9, 7, 2] := by decide +kernel

theorem test_setMatch : ((after .setMatch (editing (asked [0x0A, 7, 3, 9, 1, 0x20, 0x0F, 0xFF]))).staging.boxes[3]).kind =
      .feed ∧
    ((after .setMatch (editing (asked [0x0A, 7, 3, 9, 1, 0x20, 0x0F, 0xFF]))).staging.boxes[3]).identifier = 0x120 := by
  decide +kernel

theorem test_setTiming : ((after .setTiming (editing (asked [0x0B, 7, 3, 8, 2, 5, 6]))).staging.boxes[3]).length = 8 ∧
    answer .setTiming (editing (asked [0x0B, 7, 3, 9, 2, 5, 6])) = [0x0B, 7, 5] := by decide +kernel

theorem test_setSlot : (after .setSlot (editing (asked [0x0C, 7, 63, 2, 31]))).staging.slots[63] =
    { role := .drive, mailbox := 31 } := by decide +kernel

theorem test_setProfile : (after .setProfile (editing (asked [0x0D, 7, 9, 0, 16]))).staging.profile.idleLimit = 16 ∧
    answer .setProfile (editing (asked [0x0D, 7, 9, 0, 15])) = [0x0D, 7, 5] := by decide +kernel

theorem test_commit : (after .commit (editing { asked [0x0E, 7] with staging := image })).engine.commit =
    some { tag := 7, entry := 0 } := by decide +kernel

theorem test_commit_inconsistent : answer .commit (editing { asked [0x0E, 7] with staging :=
    { image with boxes := Image.default.boxes } }) = [0x0E, 7, 6, 1, 0] := by decide +kernel

theorem test_cancel : answer .cancel (frozen (asked [0x0F, 7])) = [0x0F, 7, 0] ∧
    replyData ((after .cancel (frozen (asked [0x0F, 7]))).reply 3).content = [0x0E, 7, 7] := by decide +kernel

theorem test_snapshot : answer .snapshot (asked [0x13, 1]) = [0x13, 1, 0, 0, 1] ∧
    (after .snapshot (called [0x13, 0])).counters.snap[107] = 1 := by decide +kernel

theorem test_readNotices : answer .readNotices (asked [0x14, 1]) = [0x14, 1, 0, 0, 8, 0, 8] := by decide +kernel

theorem test_ackNotices : answer .ackNotices (asked [0x15, 1, 0, 8]) = [0x15, 1, 0, 0, 0] ∧
    (after .ackNotices (asked [0x15, 1, 0, 8])).notices.latched = 0 := by decide +kernel

theorem test_setNoticeEnable : (after .setNoticeEnable (asked [0x16, 1, 0x36, 2])).notices.enabled = 0x236 ∧
    answer .setNoticeEnable (asked [0x16, 1, 0x36, 32]) = [0x16, 1, 5] := by decide +kernel

theorem test_readAttention : answer .readAttention { asked [0x17, 1] with notices :=
    { part.notices with attention := 0x80000001 } } = [0x17, 1, 0, 1, 0, 0, 0x80] := by decide +kernel

theorem test_unknownRequest : answer .unknownRequest (asked [0x55, 1]) = [0x55, 1, 0x0B] := by decide +kernel

theorem test_broadcastDiscard : (after .broadcastDiscard (called [1, 0])).live 109 = 1 := by decide +kernel

/-! ### Witnesses: the hypotheses of each statement are met -/

/-- The part as an event at time 0 finds it. -/
def found (s : State) : State := s.found 0

/-- The part in node number 0. -/
def unnamed (s : State) : State := { s with engine := { s.engine with node := 0 } }

theorem test_StepTakesFrontCommand_met : ({ part with pending := [.selection, .swap] } : State).pending =
    .selection :: [.swap] ∧ part.pending = [] := by decide +kernel

/-- The part held in reset, with another node's frame on the bus or not. -/
def heldPart (unheard : Bool) : State := { part with held := true, bus := { part.bus with unheard := unheard } }

/-- Commands that the part, a part with a request waiting, or one between two windows, rules out. -/
def ruledOut : List (State × Instr) :=
  [(part, .completion 0), (part, .transmitError 0), (part, .arbitrationLost 0 1),
    (part, .finishingFrameOutcome 0 .completion), (part, .selection), (part, .swap), (part, .sessionExpiry),
    (part, .restartPerformed), (part, .nresetRelease 0 ⟨false, true⟩), (part, .roundTimerExpiry BoundaryOrder.standard),
    (part, .windowClose), (part, .frameArrival 0 .error), (receiving part, .frameStart 0),
    (heldPart false, .nresetAssert 0), (inSlot 0 true .follow part, .incomingSlotStart 0),
    (inSlot 0 false .follow part, .slotArrival 0 goodSlot), (asked [2, 1], .probe), (called [1, 1], .probe),
    (asked [1, 1], .discover), (locked set, .localRoundTimerExpiry BoundaryOrder.standard),
    (after .windowClose (locked set), .roundMarkArrival 540 (markOf 8 8) BoundaryOrder.standard),
    ({ part with now := 17 }, .frameStart 1), ({ part with now := 17 }, .powerOn 1 ⟨false, false⟩ false)]

theorem test_RuledOut_unchanged : ∀ p ∈ ruledOut, after p.2 p.1 = p.1 := by decide +kernel

theorem test_RuledOut_flight_met : part.RulesOut (.completion 0) ∧ part.RulesOut (.transmitError 0) ∧
    part.RulesOut (.arbitrationLost 0 1) ∧ part.RulesOut (.finishingFrameOutcome 0 .completion) := by
  have h : (part.ripe 0).bus.flight = none := by decide +kernel
  exact ⟨.noCompletion (fun e f g => nomatch h.symm.trans g), .noError (fun e f g => nomatch h.symm.trans g),
    .noLoss (fun e f g => nomatch h.symm.trans g), .noFinishing (fun f g => nomatch h.symm.trans g)⟩

theorem test_RuledOut_take_met : (asked [2, 1]).RulesOut .probe := by
  refine .notTaken (row := .probe) ?_
  rintro r rest ⟨h, hr, -⟩
  obtain ⟨rfl, -⟩ := List.cons.inj ((by decide +kernel : (asked [2, 1]).finish.engine.requests =
    [{ broadcast := false, data := [2, 1] }]).symm.trans h)
  exact absurd hr (by decide)

theorem test_RuledOut_met : part.RulesOut .selection ∧ part.RulesOut .swap ∧ part.RulesOut .restartPerformed ∧
    part.RulesOut .windowClose ∧ part.RulesOut (.nresetRelease 0 ⟨false, true⟩) ∧ (heldPart false).RulesOut (.nresetAssert 0) ∧
    part.RulesOut (.roundTimerExpiry BoundaryOrder.standard) ∧
    (locked set).RulesOut (.localRoundTimerExpiry BoundaryOrder.standard) ∧ (receiving part).RulesOut (.frameStart 0) ∧
    part.RulesOut (.frameArrival 0 .error) ∧ ({ part with now := 17 } : State).RulesOut (.frameStart 1) ∧
    ({ part with now := 17 } : State).RulesOut (.powerOn 1 ⟨false, false⟩ false) := by
  refine ⟨.noSelection ?_, .notDue (d := .swap) ?_, .noRestart ?_, .noWindow ?_, .released ?_, .asserted ?_,
    .noMasterTimer ?_, .noLocalTimer ?_, .lineBusy ?_, .noFrame ?_ ?_, .disorder rfl ?_, .power ?_⟩
  case refine_2 => exact fun b h => nomatch h
  all_goals decide +kernel

theorem test_RuledOut_ring_met : (inSlot 0 true .follow part).RulesOut (.incomingSlotStart 0) ∧
    (inSlot 0 false .follow part).RulesOut (.slotArrival 0 goodSlot) ∧
    (after .windowClose (locked set)).RulesOut (.roundMarkArrival 540 (markOf 8 8) BoundaryOrder.standard) := by
  refine ⟨.slotUnderWay (r := { slots := 8, arrived := 0, started := true, driven := none, use := .follow }) ?_ ?_,
    .noSlot (r := { slots := 8, arrived := 0, started := false, driven := none, use := .follow }) ?_ ?_, .markTooLate ?_⟩
  all_goals decide +kernel

theorem test_AssertedReset_met : part.inTime 0 ∧ (found part).held = false ∧
    (found (sending .notice 0 part)).bus.flight ≠ none ∧ (found (receiving part)).bus.line = .receiving := by
  decide +kernel

theorem test_AssertedReset_held_met : (heldPart true).inTime 0 ∧ (heldPart false).inTime 0 ∧
    (found (heldPart true)).held = true ∧ (found (heldPart false)).bus.line = .idle ∧
    (found (heldPart false)).bus.unheard = false ∧ (found (heldPart true)).bus.unheard = true ∧
    (found (heldPart true)).ring.inRound = none ∧ (found (heldPart true)).windowClosed ≠ some 0 := by decide +kernel

theorem test_ReleaseResets_met : (heldPart true).inTime (16 * 2) ∧ ((heldPart true).found (16 * 2)).held = true ∧
    part.now ≤ 16 * 0 ∧ part.finish.held = false ∧ (heldPart true).now ≤ 16 * 0 ∧ (heldPart true).finish.held = true := by
  decide +kernel

/-- A restart due with a frame in flight. -/
def restarting (f : Option Flight) : State :=
  { part with restartDue := true, bus := { part.bus with line := .sending, flight := f } }

theorem test_Restart_met : (restarting none).boundary = none ∧ (restarting none).restartDue = true ∧
    (restarting none).bus.flight = none ∧
    (restarting (some (.attempt { owner := .notice, stamp := 1, attempts := 0 } traffic))).bus.flight =
      some (.attempt { owner := .notice, stamp := 1, attempts := 0 } traffic) ∧
    (restarting (some (.finishing traffic))).bus.flight = some (.finishing traffic) := by decide +kernel

/-- A frame of an identifier. -/
def frame (id : BusId) (data : List Byte) : Frame := { id := id, lengthCode := BitVec.ofNat 4 data.length, data := data }

theorem test_Reception_met : part.inTime 0 ∧ (found part).held = false ∧ (found part).bus.line = .idle ∧
    (found part).bus.unheard = false ∧ (receiving part).inTime 0 ∧ (found (receiving part)).receives ∧
    (found (receiving part)).bus.port = .active ∧
    ∀ id ∈ [(0xF01 : BusId), 0xF04, 0xF06, 0xF45, 0xFFF], 0xF00 < id ∧ ¬ ((found (receiving part)).engine.node ≠ 0 ∧
      id.toNat = 0xF00 + (found (receiving part)).engine.node.toNat) := by decide +kernel

/-- The set part with mailbox 0 FRESH. -/
def fresh : State := set.setBox 0 { set.box 0 with state := .fresh }

theorem test_Traffic_met : (receiving fresh).inTime 0 ∧ (found (receiving fresh)).receives ∧ traffic.id ≤ 0xEFF ∧
    (frame 0xEFF []).id ≤ 0xEFF ∧ (found (receiving fresh)).takesFrame traffic 0 ∧
    ¬ (found (receiving fresh)).takesFrame traffic 1 ∧ ((found (receiving fresh)).box 0).state = .fresh ∧
    ((found (receiving fresh)).config 0).attention = true ∧ ((receiving fresh).ripe 0).queueLaw := by
  unfold State.takesFrame State.queueLaw
  decide +kernel

/-- A capture of mailbox 0 in the read hold. -/
def captured : State :=
  { receiving fresh with engine := { fresh.engine with hold := { ReadHold.reset with valid := true, mailbox := 0 } } }

theorem test_Traffic_hold_met : captured.inTime 0 ∧ (found captured).receives ∧ (captured.ripe 0).queueLaw ∧
    (found captured).engine.hold.valid = true ∧ (found captured).takesFrame traffic (found captured).engine.hold.mailbox ∧
    ((found captured).box 0).data ≠ ((after (.frameArrival 0 (.good traffic)) captured).box 0).data ∧
    (after (.frameArrival 0 (.good traffic)) captured).engine.hold.changed = true := by
  unfold State.takesFrame State.queueLaw
  decide +kernel

theorem test_Traffic_attends_met : (found (receiving fresh)).matchAttends traffic True ∧
    (found (receiving fresh)).bus.port = .active := by
  refine ⟨⟨by decide +kernel, trivial, 0, ?_⟩, by decide +kernel⟩
  unfold State.overwrites State.takesFrame
  decide +kernel

/-- A state in SILENT with n good frames counted. -/
def silenced (n : Nat) (s : State) : State :=
  { s with bus := { s.bus with port := .silent, errors := 32, goods := n } }

theorem test_Traffic_silent_met : ∀ n ∈ [62, 63], (silenced n (receiving fresh)).inTime 0 ∧
    (found (silenced n (receiving fresh))).receives ∧ ((silenced n (receiving fresh)).ripe 0).queueLaw ∧
    (after (.frameArrival 0 (.good traffic)) (silenced n (receiving fresh))).bus.port =
      (if n = 63 then .active else .silent) := by
  unfold State.queueLaw
  decide +kernel

/-- n requests waiting. -/
def waiting (n : Nat) : State :=
  { part with engine := { part.engine with requests := List.replicate n { broadcast := false, data := [1, 1] } } }

theorem test_RequestFrame_met : (receiving (waiting 3)).inTime 0 ∧ (receiving (waiting 4)).inTime 0 ∧
    (found (receiving (waiting 4))).receives ∧ (found (receiving (waiting 4))).engine.node ≠ 0 ∧
    (frame 0xF00 [1]).id = 0xF00 ∧ (0xF05 : BusId).toNat = 0xF00 + (found (receiving (waiting 4))).engine.node.toNat ∧
    (frame 0xF05 [1]).count < 2 ∧ 2 ≤ (frame 0xF05 [1, 1]).count ∧
    4 ≤ (found (receiving (waiting 4))).engine.requests.length ∧
    (found (receiving (waiting 3))).engine.requests.length < 4 := by decide +kernel

theorem test_RequestFrame_ports_met : ∀ n ∈ [3, 4], ((receiving (waiting n)).ripe 0).queueLaw ∧
    ((silenced 5 (receiving (waiting n))).ripe 0).queueLaw ∧ (silenced 5 (receiving (waiting n))).inTime 0 ∧
    (found (silenced 5 (receiving (waiting n)))).receives ∧
    (found (silenced 5 (receiving (waiting n)))).resumesBus (frame 0xF05 [0x18, 1]) ∧
    ¬ (found (silenced 5 (receiving (waiting n)))).resumesBus (frame 0xF05 [1, 1]) := by
  unfold State.queueLaw State.resumesBus
  decide +kernel

/-- A SILENT part receiving, n good frames counted. -/
def silent (n : Nat) : State := receiving { part with bus := { part.bus with port := .silent, errors := 32, goods := n } }

theorem test_SilentEnds_met : (silent 62).inTime 0 ∧ (found (silent 62)).receives ∧
    (found (silent 62)).bus.port = .silent ∧ (found (silent 62)).bus.goods + 1 < 64 ∧
    64 ≤ (found (silent 63)).bus.goods + 1 ∧ (found (silent 62)).engine.node ≠ 0 ∧
    (frame 0xF05 [0x18, 1]).id.toNat = 0xF00 + (found (silent 62)).engine.node.toNat ∧
    2 ≤ (frame 0xF05 [0x18, 1]).count ∧ (frame 0xF05 [0x18, 1]).bytes.getD 0 0 = 0x18 := by decide +kernel

theorem test_Reception_silent_met : ∀ n ∈ [62, 63], ∀ id ∈ [(0xF01 : BusId), 0xF04, 0xF06, 0xFFF],
    ((silent n).ripe 0).queueLaw ∧ (found (silent n)).receives ∧ 0xF00 < id ∧
    id.toNat ≠ 0xF00 + (found (silent n)).engine.node.toNat ∧
    (after (.frameArrival 0 (.good (frame id []))) (silent n)).bus.port = (if n = 63 then .active else .silent) ∧
    (after (.frameArrival 0 (.good (frame id []))) (silent n)).live 101 = 1 ∧
    (after (.frameArrival 0 (.good (frame id []))) (silent n)).btx = [] := by
  unfold State.queueLaw
  decide +kernel

/-- A released part under a frame that was running at the release. -/
def underFrame : State := { part with bus := { part.bus with unheard := true } }

theorem test_Reception_unheard_met : underFrame.inTime 0 ∧ (found underFrame).held = false ∧
    (found underFrame).bus.unheard = true ∧ (after (.frameArrival 0 (.good traffic)) underFrame).bus.unheard = false ∧
    (after (.frameArrival 0 (.good traffic)) underFrame).live 101 = 0 ∧
    (after (.frameArrival 0 (.good traffic)) underFrame).btx = [] := by decide +kernel

/-- The queue with the arrival policy. -/
def arrival : State := { queued with active := { image with profile := { image.profile with policy := .arrival } } }

theorem test_Selection_met : queued.finish.canSelect = true ∧ queued.finish.queueLaw ∧ (unnamed queued).finish.canSelect
      = true ∧
    queued.finish.tx.queued.filter (fun x => !State.discards queued.finish x.owner) ≠ [] ∧
    queued.finish.active.profile.policy = .priority ∧ arrival.finish.active.profile.policy = .arrival ∧
    arrival.finish.canSelect = true ∧ arrival.finish.queueLaw := by
  unfold State.queueLaw
  decide +kernel

theorem test_InternalSteps_met : queued.canSelect = true ∧ (asked [1, 1]).canTake = true ∧
    (called [3, 9, 1, 2, 3, 4, 5, 6]).canTake = true ∧ (called [3, 9, 1, 2, 3, 4, 5, 6]).engine.waiting = none ∧
    part.now = 0 ∧ 16 * 1 ≠ part.now ∧ (queued.ripe 0).bus.line = .idle ∧ (queued.ripe 16).bus.line = .sending ∧
    ((asked [1, 1]).ripe 16).engine.requests = [] := by decide +kernel

/-- A notice alone, in node number 0: nothing is left after the discards. -/
def notice : State := unnamed (part.place .notice)

theorem test_Selection_none_left_met : notice.finish.canSelect = true ∧ notice.finish.queueLaw ∧
    notice.finish.tx.queued.filter (fun x => !State.discards notice.finish x.owner) = [] := by
  unfold State.queueLaw
  decide +kernel

/-- A reply queued in node number 0. -/
def replying : State := unnamed (part.placeReply 2 { code := 1, tag := 1, result := .ok, data := [4] })

theorem test_NodeZero_met : replying.finish.canSelect = true ∧ replying.finish.engine.node = 0 ∧
    (replying.finish.tx.queued.map (fun x => x.owner)) = [.reply 2] := by decide +kernel

theorem test_NodeZero_waiting_met : ∀ k ∈ [(1 : Fin 4), 2],
    let s : State := { replying with engine := { replying.engine with waiting := some k } }
    s.finish.canSelect = true ∧ s.finish.engine.node = 0 ∧ s.finish.engine.waiting = some k ∧
    (after .selection s).restartDue = decide (k = 2) := by decide +kernel

theorem test_Start_report_met : ∃ t e f, queued.finish.canSelect = true ∧ exec .selection queued = .next t ∧
    t.bus.flight = some (.attempt e f) ∧ e.owner = .report 1 0 := ⟨_, _, _, by decide +kernel, rfl, rfl, rfl⟩

/-- The part with one entry queued. -/
def single (o : Owner) : State := part.place o

theorem test_Start_reply_met : ∃ t e f, (single (.reply 1)).finish.canSelect = true ∧
    exec .selection (single (.reply 1)) = .next t ∧ t.bus.flight = some (.attempt e f) ∧ e.owner = .reply 1 :=
  ⟨_, _, _, by decide +kernel, rfl, rfl, rfl⟩

theorem test_Start_notice_met : ∃ t e f, (single .notice).finish.canSelect = true ∧
    exec .selection (single .notice) = .next t ∧ t.bus.flight = some (.attempt e f) ∧ e.owner = .notice :=
  ⟨_, _, _, by decide +kernel, rfl, rfl, rfl⟩

theorem test_Start_discovery_met : ∃ t e f, (single .discovery).finish.canSelect = true ∧
    exec .selection (single .discovery) = .next t ∧ t.bus.flight = some (.attempt e f) ∧ e.owner = .discovery :=
  ⟨_, _, _, by decide +kernel, rfl, rfl, rfl⟩

/-- The states in which an attempt of each kind of owner is under way. -/
def attempts (n : Nat) : List State :=
  [.report 1 0, .reply 2, .notice, .discovery].map (fun o => sending o n set)

/-- The entry in flight is no report of an older generation. -/
def current (s : State) : Bool :=
  match s.inFlight with
  | some e => match e.owner with
    | .report m g => g == (s.box m).generation
    | .reply _ | .notice | .discovery => true
  | none => false

theorem current_isCurrent {s : State} {e : Entry} {f : Frame} (h : s.bus.flight = some (.attempt e f))
    (hc : current s = true) : State.isCurrent s e := by
  intro m g ho
  simp only [current, State.inFlight, h, ho] at hc
  simpa using hc

theorem test_LostAttempt_met : ∀ s ∈ attempts 6, s.inTime 0 ∧ (found s).inFlight.isSome = true ∧
    current (found s) = true ∧ (found s).outranked 0 = true ∧ (found s).queueLaw ∧
    (∀ e ∈ (found s).inFlight, e.attempts + 1 < (found s).active.profile.retryLimit) ∧
    (found s).bus.errors + 1 ≠ 32 := by
  unfold State.queueLaw
  decide +kernel

theorem test_LastError_met : ∀ s ∈ attempts 7, s.inTime 0 ∧ current (found s) = true ∧
    (found s).bus.errors + 1 ≠ 32 ∧ ∀ e ∈ (found s).inFlight, (found s).active.profile.retryLimit ≤ e.attempts + 1 := by decide +kernel

/-- Mailbox 1 SENDING, with its again flag. -/
def again (b : Bool) : State :=
  let s := sending (.report 1 0) 7 set
  s.setBox 1 { s.box 1 with state := .sending, again := b }

theorem test_LastError_owners_met : current (found (again true)) = true ∧ ((found (again true)).box 1).again = true ∧
    ((found (again false)).box 1).again = false ∧ ((found (again true)).config 1).attention = true ∧
    (found { sending (.reply 2) 7 set with engine := { set.engine with waiting := some 2 } }).engine.waiting = some 2 ∧
    ((found (again true)).tx.queued = []) ∧ ((again true).ripe 0).queueLaw := by
  unfold State.queueLaw
  decide +kernel

/-- A notice's last attempt, an offer deferred or not, TX_ABANDON enabled or not. -/
def lastNotice (deferred enabled : Bool) : State :=
  let s := sending .notice 7 part
  { s with notices := { s.notices with deferred := deferred, enabled := if enabled then 0x810 else 0x800 } }

theorem test_LastError_notice_met : ∀ d ∈ [false, true], ∀ e ∈ [false, true], (lastNotice d e).inTime 0 ∧
    (found (lastNotice d e)).inFlight.map (fun x => x.owner) = some .notice ∧
    (found (lastNotice d e)).notices.deferred = d ∧
    Condition.txAbandon.isIn (found (lastNotice d e)).notices.latched = false ∧
    Condition.txAbandon.isIn (found (lastNotice d e)).notices.enabled = e ∧
    (found (lastNotice d e)).bus.errors + 1 ≠ 32 := by decide +kernel

/-- The part one transmit error short of the 32nd in a row. -/
def atLimit (s : State) : State := { s with bus := { s.bus with errors := 31 } }

theorem test_ThirtySecondError_met : ∀ s ∈ (attempts 7 ++ attempts 6).map atLimit, s.inTime 0 ∧
    (found s).attempting = true ∧ (found s).bus.errors = 31 ∧ current (found s) = true ∧ (s.ripe 0).queueLaw ∧
    (after (.transmitError 0) s).bus.port = .silent := by
  unfold State.queueLaw
  decide +kernel

theorem test_ThirtySecondError_returned : ∀ s ∈ (attempts 6).map atLimit,
    ∀ e ∈ (found s).inFlight, e.attempts + 1 < (found s).active.profile.retryLimit ∧
    (after (.transmitError 0) s).tx.queued = [{ e with attempts := 7 }] := by decide +kernel

/-- Mailbox 0 takes every traffic frame, and the part feeds itself; mailbox 0 is FRESH. -/
def feeding (s : State) : State :=
  let s := s.setBox 0 { s.box 0 with state := .fresh }
  { s with active := { image with
      boxes := image.boxes.set 0 { image.boxes[0] with mask := 0 }
      profile := { image.profile with selfFeed := true } } }

theorem test_ReportCompletes_met : ∀ s ∈ [again true, again false, feeding (again true), feeding (again false)],
    s.inTime 0 ∧
    (found s).inFlight.map (fun e => e.owner) = some (.report 1 ((found s).box 1).generation) ∧
    ((found s).config 1).kind = .report ∧ (s.ripe 0).queueLaw := by
  unfold State.queueLaw
  decide +kernel

theorem test_ReportCompletes_selfFeed_met :
    let u := found (feeding (again true))
    u.active.profile.selfFeed = true ∧ u.takesFrame (frame 0x300 []) 0 ∧ ¬ u.takesFrame (frame 0x300 []) 2 ∧
    u.overwrites (frame 0x300 []) 0 ∧ u.notices.attention = 0 ∧ (u.box 1).again = true ∧
    (found (again true)).active.profile.selfFeed = false ∧
    (after (.completion 0) (feeding (again true))).notices.attention = 1 ∧
    (after (.completion 0) (feeding (again true))).live 1 = 1 ∧
    (after (.completion 0) (feeding (again true))).hasQueued (Owner.isReportOf 1) = true := by
  unfold State.overwrites State.takesFrame
  decide +kernel

theorem test_OtherCompletions_met : ∀ s ∈ [sending (.reply 2) 0 part, sending .notice 0 part, sending .discovery 0 part,
      { sending .notice 0 part with notices := { part.notices with deferred := true } }], s.inTime 0 ∧
    (found s).attempting = true ∧ (∀ x ∈ (found s).tx.queued, x.owner.isNotice = false) ∧ (s.ripe 0).queueLaw := by
  unfold State.queueLaw
  decide +kernel

/-- A report of generation 0 in flight, its mailbox of generation 1 since. -/
def older (st : BoxState) : State :=
  let s := sending (.report 1 0) 0 set
  s.setBox 1 { s.box 1 with state := st, generation := 1 }

theorem test_OldGeneration_met : ∀ st ∈ [BoxState.pending, .void, .quiet], (older st).inTime 0 ∧
    (found (older st)).inFlight.map (fun e => e.owner) = some (.report 1 0) ∧
    0 ≠ ((found (older st)).box 1).generation ∧ ((older st).ripe 0).queueLaw ∧
    (found (older st)).active.profile.selfFeed = false ∧ (found (older st)).outranked 0 = true ∧
    0 + 1 < (found (older st)).active.profile.retryLimit ∧ (found (older st)).bus.errors + 1 ≠ 32 := by
  unfold State.queueLaw
  decide +kernel

theorem test_ThirtySecondError_older_met : ∀ st ∈ [BoxState.pending, .quiet], (atLimit (older st)).inTime 0 ∧
    (found (atLimit (older st))).inFlight.map (fun e => e.owner) = some (.report 1 0) ∧
    0 ≠ ((found (atLimit (older st))).box 1).generation ∧ ((atLimit (older st)).ripe 0).queueLaw ∧
    (found (atLimit (older st))).bus.errors = 31 ∧
    (after (.transmitError 0) (atLimit (older st))).tx.queued.map (fun e => e.owner) =
      (if st = .pending then [.report 1 1] else []) := by
  unfold State.queueLaw
  decide +kernel

theorem test_OldGeneration_selfFeed_met : ∀ st ∈ [BoxState.pending, .quiet], (feeding (older st)).inTime 0 ∧
    (found (feeding (older st))).inFlight.map (fun e => e.owner) = some (.report 1 0) ∧
    0 ≠ ((found (feeding (older st))).box 1).generation ∧ ((feeding (older st)).ripe 0).queueLaw ∧
    (found (feeding (older st))).active.profile.selfFeed = true ∧
    (found (feeding (older st))).overwrites (frame 0x300 []) 0 ∧
    (after (.completion 0) (feeding (older st))).live 0 = 1 ∧ (after (.completion 0) (feeding (older st))).live 3 = 0 ∧
    (after (.completion 0) (feeding (older st))).hasQueued (Owner.isReportOf 1) = decide (st = .pending) := by
  unfold State.queueLaw State.overwrites State.takesFrame
  decide +kernel

theorem test_LastError_older_met : ∀ st ∈ [BoxState.pending, .void],
    (found (sending (.report 1 0) 7 (older st))).inFlight.map (fun e => e.owner) = some (.report 1 0) ∧
    0 ≠ ((found (sending (.report 1 0) 7 (older st))).box 1).generation ∧
    ((found (sending (.report 1 0) 7 (older st))).box 1).state = st := by decide +kernel

theorem test_Finishing_met : finishing.inTime 0 ∧ (found finishing).bus.flight = some (.finishing traffic) := by
  decide +kernel

/-- A mark with a wrong check. -/
def badMark : RoundMark := { markOf 7 8 with check := 0 }

theorem test_GoodMark_met : (∀ n ∈ [8, 16, 32, 64], GoodMark (markOf 7 n)) ∧ ¬ GoodMark badMark ∧
    ¬ GoodMark (markOf 7 9) := by
  unfold GoodMark
  decide +kernel

/-- The part as a mark at a time finds it, the round in progress cut. -/
def cutAt (time : Nat) (s : State) : State := (s.found (16 * time)).roundCut

/-- The accepted rounds a mark may cut: a LISTEN or a DRIVE slot under way, none under way. -/
def cuts (s : State) : List State :=
  [s, inSlot 1 true .follow s, inSlot 0 true .follow s, inSlot 1 false .follow s, inSlot 1 true .returned s,
    inSlot 1 true .passThrough s]

theorem test_roundCut_met : (cuts set).map (fun s => (s.roundCut.rout, s.roundCut.live 100, s.roundCut.live 98)) =
    [([], 0, 0), ([.partialSlot 1], 1, 1), ([.partialSlot 0], 1, 0), ([], 1, 0), ([], 1, 1), ([.partialSlot 1], 1, 0)] := by
  decide +kernel

theorem test_LockIsLearnt_hunt_met : (∀ s ∈ cuts set, s.markInTime 0 ∧ (cutAt 0 s).held = false ∧
      (cutAt 0 s).ring.lock = .hunt ∧ State.judges (cutAt 0 s) (markOf 7 8)) ∧ State.judges (cutAt 0 master) (markOf 4 8) := by
  unfold State.judges
  decide +kernel

/-- CONFIRM, the reference mark, number 6, come at 10 microseconds; it is now 65000 microseconds. -/
def confirm (s : State) : State :=
  { s with
    now := 16 * 65000
    ring := { s.ring with
      lock := .confirm, reference := some { number := 6, time := 10 }
      timer := some { period := 1000, next := 16 * 65600 } } }

/-- A master that has emitted up to round 7. -/
def master7 : State := { master with ring := { master.ring with emitted := [4, 5, 6, 7], current := 7 } }

theorem test_LockIsLearnt_confirm_met : ∀ p ∈ [(set, RingRole.follower), (master7, .master)],
    ∀ time ∈ [65000, 65545, 65546], (confirm p.1).markInTime time ∧ (cutAt time (confirm p.1)).ring.lock = .confirm ∧
      (cutAt time (confirm p.1)).ring.reference = some { number := 6, time := 10 } ∧
      (cutAt time (confirm p.1)).held = false ∧ (cutAt time (confirm p.1)).role = p.2 ∧
      State.judges (cutAt time (confirm p.1)) (markOf 7 8) := by
  unfold State.judges
  decide +kernel

theorem test_LockIsLearnt_interval_met : 65545 - 10 ≤ 65535 ∧ ¬ 65546 - 10 ≤ 65535 ∧ (markOf 7 8).number = 6 + 1 := by
  decide

/-- A master LOCKED, the next of its returned marks, number 6, expected at 500 microseconds, n misses in a row. -/
def lockedMaster (n : Nat) : State :=
  { master7 with ring := { master7.ring with
      lock := .locked, period := some 640, expected := some 500, expectedNumber := 6, misses := n } }

theorem test_MarkInWindow_met : ∀ p ∈ [(locked set, markOf 8 8), (lockedMaster 1, markOf 6 8)], ∀ time ∈ [460, 500, 540],
    p.1.markInTime time ∧ (cutAt time p.1).held = false ∧ (cutAt time p.1).ring.lock = .locked ∧
    (cutAt time p.1).ring.expected = some 500 ∧ (cutAt time p.1).ring.period = some 640 ∧ GoodMark p.2 ∧
    p.2.number = (cutAt time p.1).ring.expectedNumber ∧ 16 * 500 ≤ 16 * time + 640 ∧ 16 * time ≤ 16 * 500 + 640 := by
  unfold GoodMark
  decide +kernel

theorem test_MarkInWindow_roles_met : (cutAt 460 (locked set)).role = .follower ∧ (cutAt 460 (lockedMaster 1)).role = .master ∧
    (6 : Byte) ∈ (cutAt 460 (lockedMaster 1)).ring.emitted := by decide +kernel

/-- A follower LOCKED, with n misses in a row. -/
def missed (n : Nat) : State := { locked set with ring := { (locked set).ring with misses := n } }

theorem test_Misses_met : ∀ n ∈ [0, 1], ∀ time ∈ [459, 460, 540], (missed n).markInTime time ∧
    (cutAt time (missed n)).held = false ∧ (cutAt time (missed n)).ring.lock = .locked ∧
    (cutAt time (missed n)).ring.expected = some 500 ∧ (cutAt time (missed n)).ring.period = some 640 ∧
    (cutAt time (missed n)).ring.misses < 2 ∧ State.judges (cutAt time (missed n)) (markOf 7 8) ∧
    (markOf 7 8).number ≠ (cutAt time (missed n)).ring.expectedNumber := by
  unfold State.judges
  decide +kernel

theorem test_Misses_inside_met : ¬ 16 * 500 ≤ 16 * 459 + 640 ∧ 16 * 500 ≤ 16 * 460 + 640 ∧ 16 * 540 ≤ 16 * 500 + 640 := by
  decide

theorem test_Misses_close_met : ∀ n ∈ [1, 2], (missed n).quiet = true ∧ (missed n).inOrder (16 * 500 + 640) = true ∧
    ((missed n).found (16 * 500 + 640)).roundCut.held = false ∧
    ((missed n).found (16 * 500 + 640)).roundCut.ring.lock = .locked ∧
    ((missed n).found (16 * 500 + 640)).roundCut.ring.expected = some 500 ∧
    ((missed n).found (16 * 500 + 640)).roundCut.ring.period = some 640 ∧
    ((missed n).found (16 * 500 + 640)).roundCut.ring.misses = n := by decide +kernel

theorem test_Misses_closed_met : (after .windowClose (missed 1)).boundary = none ∧
    (after .windowClose (missed 1)).restartDue = false ∧ (after .windowClose (missed 1)).now = 16 * 540 ∧
    (after .windowClose (missed 1)).windowClosed = some (16 * 540) := by decide +kernel

/-- The kinds of a third miss: a state and a mark. -/
def thirdMisses : List (State × RoundMark) :=
  [(missed 2, badMark), (missed 2, markOf 7 8), (lockedMaster 2, badMark), (lockedMaster 2, markOf 7 8),
    (lockedMaster 2, markOf 9 8)]

theorem test_ThirdMiss_met : ∀ p ∈ thirdMisses, ∀ time ∈ [459, 500], p.1.markInTime time ∧
    (cutAt time p.1).held = false ∧ (cutAt time p.1).ring.lock = .locked ∧
    (cutAt time p.1).ring.expected = some 500 ∧ (cutAt time p.1).ring.period = some 640 ∧
    (cutAt time p.1).ring.misses = 2 := by decide +kernel

theorem test_ThirdMiss_kinds_met : ¬ GoodMark badMark ∧ State.judges (cutAt 500 (missed 2)) (markOf 7 8) ∧
    (markOf 7 8).number ≠ (cutAt 500 (missed 2)).ring.expectedNumber ∧
    State.judges (cutAt 500 (lockedMaster 2)) (markOf 7 8) ∧ (cutAt 500 (lockedMaster 2)).role = .master ∧
    (markOf 9 8).number ∉ (cutAt 500 (lockedMaster 2)).ring.emitted := by
  unfold GoodMark State.judges
  decide +kernel

/-- Mailbox 1 in class LIVE, in a state, when the third miss comes. -/
def dependent (st : BoxState) : State :=
  (missed 2).setBox 1 { (missed 2).box 1 with state := st, classSeen := .live }

theorem test_ThirdMiss_lost_met : ∀ st ∈ [BoxState.quiet, .pending, .sending],
    ((cutAt 500 (dependent st)).config 1).kind = .report ∧
    (cutAt 500 (dependent st)).active.slots[1] = { role := .listen, mailbox := 1 } ∧
    ((cutAt 500 (dependent st)).box 1).classSeen = .live ∧ ((cutAt 500 (dependent st)).box 0).classSeen = .none ∧
    State.marksAttention 1 { (cutAt 500 (dependent st)).box 1 with classSeen := .lost } (cutAt 500 (dependent st)) := by
  unfold State.marksAttention
  decide +kernel

theorem test_Foreign_met : ∀ s ∈ [master, lockedMaster 0, lockedMaster 1], ∀ time ∈ [459, 500], s.markInTime time ∧
    (cutAt time s).held = false ∧ (cutAt time s).role = .master ∧ (markOf 9 8).number ∉ (cutAt time s).ring.emitted ∧
    (cutAt time s).ring.misses < 2 := by decide +kernel

theorem test_SlotStart_met : ∀ n ∈ [0, 1, 2], (inSlot n false .follow set).inTime 0 ∧
    (found (inSlot n false .follow set)).ring.inRound =
      some { slots := 8, arrived := n, started := false, driven := none, use := .follow } ∧
    (((found (inSlot n false .follow set)).active.slot n).role = .drive ↔ n = 0) := by decide +kernel

theorem test_Slots_outside_met : ∀ p ∈ [(set, 0), (locked set, 0), (confirm set, 65000)], p.1.inTime (16 * p.2) ∧
    (p.1.found (16 * p.2)).held = false ∧ (p.1.found (16 * p.2)).ring.inRound = none := by decide +kernel

/-- The set part, listening in slot 7 instead. -/
def lastSlot : State :=
  { set with active := { image with slots := image.slots.set 7 { role := .listen, mailbox := 1 } } }

theorem test_SlotArrivals_listen_met : ∀ use ∈ [RoundUse.follow, .returned], (inSlot 7 true use lastSlot).inTime 0 ∧
    (found (inSlot 7 true use lastSlot)).ring.inRound =
      some { slots := 8, arrived := 7, started := true, driven := none, use := use } ∧
    ((found (inSlot 7 true use lastSlot)).active.slot 7).role = .listen := by decide +kernel

theorem test_SlotArrivals_slots_met : GoodSlot goodSlot ∧ ¬ GoodSlot { goodSlot with check := 0 } ∧
    ¬ GoodSlot (slotOf 4 0 Data8.zero) ∧ ¬ GoodSlot (slotOf 1 9 Data8.zero) ∧
    GoodSlot (slotOf 3 8 #v[1, 2, 3, 4, 5, 6, 7, 8]) ∧ ¬ GoodSlot (slotOf 1 1 #v[1, 2, 0, 0, 0, 0, 0, 0]) := by
  simp only [← slotGood_iff]
  decide

/-- Mailbox 1 in a state and class, its slot under way, and what a good slot makes of it. -/
def handed (st : BoxState) (cls : SlotClass) (b : SlotBytes) : State × Runtime :=
  let s := inSlot 1 true .follow set
  (s.setBox 1 { s.box 1 with state := st, classSeen := cls },
    { s.box 1 with
      state := st, classSeen := SlotClass.ofSlotState (slotStateCode b), data := b.data, dataLength := slotLength b })

theorem test_SlotArrivals_triggers_met :
    (∀ st ∈ [BoxState.void, .quiet, .pending], triggers (set.config 1) (handed st .none goodSlot).2 .none = true) ∧
    (∀ st ∈ [BoxState.quiet, .pending, .sending],
      triggers (set.config 1) { (handed st .live goodSlot).2 with
        lastSent := { data := goodSlot.data, cls := .live }, captured := none } .live = false) ∧
    State.marksAttention 1 (handed .quiet .live voidSlot).2 (handed .quiet .live voidSlot).1 ∧
    ¬ State.marksAttention 1 (handed .quiet .live goodSlot).2 (handed .quiet .live goodSlot).1 := by
  unfold State.marksAttention
  decide +kernel

theorem test_SlotArrivals_unread_met : (inSlot 0 true .follow set).inTime 0 ∧ (inSlot 1 true .passThrough set).inTime 0 ∧
    ((found (inSlot 0 true .follow set)).active.slot 0).role ≠ .listen ∧
    (found (inSlot 1 true .passThrough set)).ring.inRound =
      some { slots := 8, arrived := 1, started := true, driven := none, use := .passThrough } := by decide +kernel

/-- A master whose previous round still passes through, or not. -/
def masters : List State := [master, inSlot 1 true .returned master, inSlot 1 true .passThrough master]

theorem test_Timers_master_met : ∀ s ∈ masters, s.quiet = true ∧ s.inOrder 16000 = true ∧
    (s.found 16000).held = false ∧ (s.found 16000).role = .master ∧
    (s.found 16000).ring.timer.map (fun x => x.next) = some 16000 ∧
    (after (.roundTimerExpiry BoundaryOrder.standard) s).boundary = none := by decide +kernel

/-- A follower whose session is about to expire. -/
def expiring : State := { set with engine := { set.engine with owner := some 7, idle := 1999 } }

theorem test_Timers_local_met : ∀ s ∈ [set, expiring], s.quiet = true ∧ s.inOrder 16000 = true ∧
    (s.found 16000).held = false ∧ (s.found 16000).role = .follower ∧
    (s.found 16000).ring.timer.map (fun x => x.next) = some 16000 := by decide +kernel

theorem test_Timers_works_met : (after (.localRoundTimerExpiry BoundaryOrder.standard) set).boundary = none ∧
    (after (.localRoundTimerExpiry BoundaryOrder.standard) expiring).boundary = some {
      number := 1, cause := .localTimer, due := .sessionExpiry, rest := [.snapshotCount, .noticeRepeat] } := by
  decide +kernel

/-- Mailbox 0 HELD at an age. -/
def aged (n : Byte) : State := set.setBox 0 { set.box 0 with state := .held, age := n }

theorem test_FeedAgeing_met : ((aged 1).config 0).kind = .feed ∧ ((aged 1).box 0).state = .held ∧
    ((aged 1).config 0).limit ≠ 0 ∧ satSucc ((aged 1).box 0).age = ((aged 1).config 0).limit ∧
    satSucc ((aged 0).box 0).age ≠ ((aged 0).config 0).limit ∧ (set.box 0).state = .void := by decide +kernel

/-- Mailbox 1 QUIET in class LIVE at an age. -/
def quietBox (n : Byte) : State := set.setBox 1 { set.box 1 with state := .quiet, classSeen := .live, age := n }

theorem test_ReportAgeing_met : ((quietBox 3).config 1).kind = .report ∧ ((quietBox 3).box 1).state = .quiet ∧
    ((quietBox 3).config 1).limit ≤ satSucc ((quietBox 3).box 1).age ∧ ((quietBox 3).box 1).classSeen = .live ∧
    ¬ ((quietBox 2).config 1).limit ≤ satSucc ((quietBox 2).box 1).age ∧
    (quietBox 3).hasInFlight (Owner.isReportOf 1) = false := by decide +kernel

/-- A swap due. -/
def swapping : State := due .swap (frozen { part with staging := image })

theorem test_Swap_met : swapping.boundary = some { number := 9, cause := .localTimer, due := .swap, rest := [] } ∧
    swapping.engine.commit = some { tag := 7, entry := 3 } ∧ swapping.active.changes swapping.staging 0 ∧
    swapping.active.changes swapping.staging 1 ∧ ¬ swapping.active.changes swapping.staging 2 := by
  unfold Image.changes
  decide +kernel

/-- A swap that changes the role, at a follower LOCKED in the middle of a round, or at a master. -/
def roleSwap (role : RingRole) (s : State) : State :=
  due .swap (frozen { s with staging := { s.active with profile := { s.active.profile with
    role := role, snapshotInterval := 5, noticeRepeat := 3 } } })

theorem test_Swap_roles_met : ∀ p ∈ [(inSlot 1 true .follow (locked set), RingRole.follower, RingRole.master),
      (lockedMaster 0, .master, .follower), (lockedMaster 0, .master, .master), (set, .follower, .follower)],
    (roleSwap p.2.2 p.1).active.profile.role = p.2.1 ∧ (roleSwap p.2.2 p.1).staging.profile.role = p.2.2 ∧
    (roleSwap p.2.2 p.1).engine.commit = some { tag := 7, entry := 3 } ∧
    (roleSwap p.2.2 p.1).active.profile.snapshotInterval ≠ (roleSwap p.2.2 p.1).staging.profile.snapshotInterval ∧
    (roleSwap p.2.2 p.1).active.profile.noticeRepeat ≠ (roleSwap p.2.2 p.1).staging.profile.noticeRepeat := by
  decide +kernel

theorem test_Swap_lost_met : ¬ (roleSwap .master (dependent .quiet)).active.changes
      (roleSwap .master (dependent .quiet)).staging 1 ∧
    (roleSwap .master (dependent .quiet)).ring.lock = .locked ∧
    ((roleSwap .master (dependent .quiet)).staging.boxes[1]).kind = .report ∧
    (roleSwap .master (dependent .quiet)).staging.slots[1] = { role := .listen, mailbox := 1 } ∧
    ((roleSwap .master (dependent .quiet)).box 1).classSeen = .live := by
  unfold Image.changes
  decide +kernel

theorem test_Counts_session_met : (∃ c, (frozen part).engine.commit = some c) ∧ part.engine.commit = none ∧
    part.engine.owner = none ∧ (editing part).engine.owner = some 7 ∧ expiring.engine.idle + 1 = 2000 ∧
    expiring.active.profile.idleLimit = 2000 := ⟨⟨_, rfl⟩, by decide +kernel⟩

theorem test_Counts_intervals_met : master.active.profile.snapshotInterval = 0 ∧ set.active.profile.snapshotInterval = 1000 ∧
    ({ set with counters := { set.counters with interval := 999 } } : State).counters.interval + 1 = 1000 := by
  decide +kernel

/-- The repeat count runs: RESTARTED latched and enabled, no notice in the queue, repeat 3, at a count. -/
def repeating (n : Nat) : State :=
  { set with
    active := { image with profile := { image.profile with noticeRepeat := 3 } }
    notices := { set.notices with repeatCount := n } }

theorem test_Counts_repeat_met : (repeating 47).active.profile.noticeRepeat ≠ 0 ∧
    (repeating 47).notices.latched &&& (repeating 47).notices.enabled ≠ 0 ∧
    (repeating 47).hasQueued Owner.isNotice = false ∧ (repeating 47).hasInFlight Owner.isNotice = false ∧
    3 * 16 ≤ (repeating 47).notices.repeatCount + 1 ∧ ¬ 3 * 16 ≤ (repeating 46).notices.repeatCount + 1 := by
  decide +kernel

theorem test_Counts_met : (∀ d ∈ [DueStep.sessionExpiry, .snapshotExpiry, .repeatExpiry],
      (due d part).boundary = some { number := 9, cause := .localTimer, due := d, rest := [] }) ∧
    (due .repeatExpiry part).hasQueued Owner.isNotice = false ∧
    (due .repeatExpiry part).hasInFlight Owner.isNotice = false := by decide +kernel

/-- The part as it is when it takes the request with the given bytes, by the given row. -/
def taking (row : TakeRow) (bytes : List Byte) (s : State) : Bool :=
  decide (s.finish.takes row { broadcast := false, data := bytes } [])

theorem test_queueLaw_met : (asked [1, 1]).finish.queueLaw ∧ (called [2, 0, 1]).finish.queueLaw := by
  unfold State.queueLaw
  decide +kernel

theorem test_plain_requests_met : taking .probe [1, 1] (asked [1, 1]) = true ∧
    taking .resumeBus [0x18, 1] (asked [0x18, 1]) = true ∧ taking .unknownRequest [0x00, 1] (asked [0x00, 1]) = true ∧
    taking .unknownRequest [0x20, 1] (asked [0x20, 1]) = true ∧
    taking .readNotices [0x14, 1] (asked [0x14, 1]) = true := by decide +kernel

theorem test_Discover_met : (called [2, 0, 1]).finish.takes .discover { broadcast := true, data := [2, 0, 1] } [] ∧
    (unnamed (called [2, 0, 0])).finish.takes .discover { broadcast := true, data := [2, 0, 0] } [] ∧
    (called [2, 0]).finish.takes .broadcastDiscard { broadcast := true, data := [2, 0] } [] ∧
    (called [2, 0, 1]).finish.hasQueued Owner.isDiscovery = false ∧
    (called [2, 0, 1]).finish.hasInFlight Owner.isDiscovery = false := by decide +kernel

theorem test_Assign_met : ∀ tag ∈ [(0 : Byte), 63], ∀ last ∈ [(6 : Byte), 7],
    (called [3, tag, 1, 2, 3, 4, 5, last]).finish.takes .assign
      { broadcast := true, data := [3, tag, 1, 2, 3, 4, 5, last] } [] ∧
    ((([3, tag, 1, 2, 3, 4, 5, last] : List Byte).drop 2).take 6 =
      (called [3, tag, 1, 2, 3, 4, 5, last]).finish.engine.serial.toList ↔ last = 6) := by decide +kernel

/-- Every reply entry in use. -/
def full (s : State) : State :=
  { s with tx := { s.tx with replies := Vector.replicate 4 { ReplyEntry.blank with status := .reserved } } }

theorem test_Assign_clauses_met :
    let s := unnamed (called [3, 9, 1, 2, 3, 4, 5, 6])
    s.finish.freeReply = some 0 ∧ (full s).finish.freeReply = none ∧
    (full s).finish.takes .assign { broadcast := true, data := [3, 9, 1, 2, 3, 4, 5, 6] } [] ∧
    s.finish.engine.node = 0 ∧ s.finish.enabledLatched ≠ 0 ∧ s.finish.hasInFlight Owner.isNotice = false ∧
    s.finish.queueLaw ∧ (full s).finish.queueLaw := by
  unfold State.queueLaw
  decide +kernel

theorem test_Assign_offer_met :
    let s := unnamed (called [3, 9, 1, 2, 3, 4, 5, 6])
    s.finish.hasQueued Owner.isNotice = false ∧ (s.place .notice).finish.hasQueued Owner.isNotice = true ∧
    (after .assign s).tx.queued.map (fun e => e.owner) = [.reply 0, .notice] ∧
    (after .assign (s.place .notice)).tx.queued.map (fun e => e.owner) = [.notice, .reply 0] ∧
    (sending .notice 0 s).canTake = false := by decide +kernel

theorem test_ReadConfig_met : ∀ bytes ∈ ([[0x10, 1, 0, 0, 31, 2], [0x10, 1, 1, 0, 32, 0], [0x10, 1, 1, 0, 31, 3],
      [0x10, 1, 0, 1, 63, 0], [0x10, 1, 0, 1, 64, 0], [0x10, 1, 0, 1, 63, 1], [0x10, 1, 1, 2, 1, 0], [0x10, 1, 1, 2, 9, 0],
      [0x10, 1, 1, 2, 0, 0], [0x10, 1, 1, 2, 10, 0], [0x10, 1, 1, 2, 9, 1], [0x10, 1, 2, 0, 0, 0], [0x10, 1, 0, 3, 0, 0],
      [0x10, 1, 0, 0, 0], [0x10, 1, 1, 0, 0, 1], [0x10, 1, 1, 0, 0, 0]] : List (List Byte)),
    taking .readConfig bytes (asked bytes) = true := by decide +kernel

theorem test_ReadMailbox_met : ∀ bytes ∈ ([[0x11, 1, 31, 0], [0x11, 1, 32, 0], [0x11, 1, 31, 3], [0x11, 1, 0]] :
      List (List Byte)), taking .readMailboxPart0 bytes { asked bytes with active := image } = true ∧
    ∀ m ∈ [(0 : Byte), 1],
      taking .readMailboxPart0 [0x11, 1, m, 0] { asked [0x11, 1, m, 0] with active := image } = true := by decide +kernel

/-- The part holding a capture of mailbox 4. -/
def holding (s : State) : State :=
  { s with engine := { s.engine with hold := { ReadHold.reset with valid := true, mailbox := 4 } } }

theorem test_ReadHold_met : (∀ m ∈ [(0 : Byte), 31, 32], taking .capture [0x11, 1, m, 1] (asked [0x11, 1, m, 1]) = true ∧
      taking .readMailboxPart2 [0x11, 1, m, 2] (asked [0x11, 1, m, 2]) = true) ∧
    taking .readMailboxPart2 [0x11, 1, 4, 2] (holding (asked [0x11, 1, 4, 2])) = true ∧
    (holding (asked [0x11, 1, 4, 2])).finish.engine.hold.valid = true ∧
    (holding (asked [0x11, 1, 4, 2])).finish.engine.hold.mailbox = 4 := by decide +kernel

theorem test_ReadCounters_met : ∀ bytes ∈ ([[0x12, 1], [0x12, 1, 0], [0x12, 1, 109], [0x12, 1, 110], [0x12, 1, 111]] :
    List (List Byte)), taking .readCounters bytes (asked bytes) = true := by decide +kernel

theorem test_Restart_request_met : taking .restart [0x1F, 1] (asked [0x1F, 1]) = true ∧
    (asked [0x1F, 1]).finish.bus.port = .active ∧
    taking .restart [0x1F, 1] { asked [0x1F, 1] with bus := { part.bus with port := .silent } } = true := by
  decide +kernel

theorem test_OpenEdit_met : (∀ tag ∈ [(0 : Byte), 7, 8], taking .openEdit [8, tag] (asked [8, tag]) = true ∧
      taking .openEdit [8, tag] (editing (asked [8, tag])) = true) ∧
    (asked [8, 7]).finish.engine.owner = none ∧ (editing (asked [8, 7])).finish.engine.owner = some 7 := by
  decide +kernel

theorem test_CloseEdit_met : taking .closeEdit [9, 7] (editing (asked [9, 7])) = true ∧
    State.owns { broadcast := false, data := [9, 7] } (editing (asked [9, 7])).finish := by
  unfold State.owns
  decide +kernel

theorem test_EditRequests_met : ∀ p ∈ [(TakeRow.closeEdit, (9 : Byte)), (.setMatch, 10), (.setTiming, 11), (.setSlot, 12),
      (.setProfile, 13), (.commit, 14)], ∀ tag ∈ [(7 : Byte), 8],
    taking p.1 [p.2, tag] (editing (asked [p.2, tag])) = true ∧ taking p.1 [p.2, tag] (frozen (asked [p.2, tag])) = true ∧
    (frozen (asked [p.2, tag])).finish.engine.commit ≠ none ∧ (frozen (asked [p.2, tag])).finish.queueLaw := by
  unfold State.queueLaw
  decide +kernel

/-- The owner's request, of an open session without a commit pending. -/
def owned (row : TakeRow) (bytes : List Byte) : Bool :=
  taking row bytes (editing (asked bytes)) && decide ((editing (asked bytes)).finish.engine.owner = bytes[1]?) &&
    decide ((editing (asked bytes)).finish.engine.commit = none)

theorem test_SetMatch_met : ∀ bytes ∈ ([[10, 7, 31, 15, 0x0F, 0xFF, 0x0F, 0xFF], [10, 7, 31, 14, 0, 0, 0, 0],
      [10, 7, 32, 0, 0, 0, 0, 0], [10, 7, 31, 16, 0, 0, 0, 0], [10, 7, 0, 3, 0, 0, 0, 0], [10, 7, 0, 0, 0x10, 0, 0, 0],
      [10, 7, 0, 0, 0, 0, 0x10, 0], [10, 7, 0, 0, 0, 0, 0]] : List (List Byte)), owned .setMatch bytes = true := by
  decide +kernel

theorem test_SetTiming_met : ∀ bytes ∈ ([[11, 7, 31, 8, 2, 0, 0], [11, 7, 32, 8, 2, 0, 0], [11, 7, 31, 9, 2, 0, 0],
      [11, 7, 31, 8, 3, 0, 0], [11, 7, 31, 8, 2, 0]] : List (List Byte)), owned .setTiming bytes = true := by
  decide +kernel

theorem test_SetSlot_met : ∀ bytes ∈ ([[12, 7, 63, 2, 31], [12, 7, 64, 2, 31], [12, 7, 63, 3, 31], [12, 7, 63, 2, 32],
      [12, 7, 63, 2]] : List (List Byte)), owned .setSlot bytes = true := by decide +kernel

theorem test_SetProfile_met : ∀ bytes ∈ ([[13, 7, 0, 0, 0], [13, 7, 10, 0, 0], [13, 7, 1, 0, 1], [13, 7, 1, 0, 2],
      [13, 7, 2, 0, 8], [13, 7, 2, 0, 64], [13, 7, 2, 0, 65], [13, 7, 3, 0, 56], [13, 7, 3, 0, 55], [13, 7, 4, 0, 1],
      [13, 7, 4, 0, 2], [13, 7, 5, 0, 1], [13, 7, 5, 0, 15], [13, 7, 5, 0, 16], [13, 7, 6, 255, 255], [13, 7, 7, 0, 255],
      [13, 7, 7, 1, 0], [13, 7, 8, 0, 1], [13, 7, 8, 0, 2], [13, 7, 9, 0, 16], [13, 7, 9, 0, 15], [13, 7, 9, 0]] :
    List (List Byte)), owned .setProfile bytes = true := by decide +kernel

/-- The owner's COMMIT of a staging image. -/
def committing (i : Image) : State := { editing (asked [14, 7]) with staging := i }

/-- An image that fails one check: 1 at entry 5, 2 at entry 63, 3 at mailbox 31, 4. -/
def wrong : Nat → Image
  | 1 => { image with slots := image.slots.set 5 { role := .drive, mailbox := 9 } }
  | 2 => { image with slots := image.slots.set 63 { role := .drive, mailbox := 0 } }
  | 3 => { image with boxes := image.boxes.set 31 { MailboxConfig.default with kind := .feed, identifier := 0xF00 } }
  | _ => { image with profile := { image.profile with role := .master, roundPeriod := 55 } }

theorem test_Commit_met : (∀ i ∈ [image, wrong 1, wrong 2, wrong 3, wrong 4],
      taking .commit [14, 7] (committing i) = true ∧
      State.owns { broadcast := false, data := [14, 7] } (committing i).finish) ∧
    (committing (wrong 1)).finish.queueLaw := by
  unfold State.owns State.queueLaw
  decide +kernel

/-- Check 1 of R164 fails at an entry. -/
abbrev check1 (i : Image) (n : Fin 64) : Prop :=
  (i.slots[n].role = .drive ∧ (i.boxes[i.slots[n].mailbox]).kind ≠ .feed) ∨
    (i.slots[n].role = .listen ∧ (i.boxes[i.slots[n].mailbox]).kind ≠ .report)

/-- Check 2 fails at an entry. -/
abbrev check2 (i : Image) (n : Fin 64) : Prop :=
  i.slots[n].role ≠ .pass ∧
    ∃ k : Fin 64, k < n ∧ i.slots[k].role ≠ .pass ∧ i.slots[k].mailbox = i.slots[n].mailbox

/-- Check 3 fails at a mailbox. -/
abbrev check3 (i : Image) (m : Fin 32) : Prop := (i.boxes[m]).kind ≠ .unused ∧ 0xEFF < (i.boxes[m]).identifier

theorem test_Commit_passes_met : (∀ n, ¬ check1 image n) ∧ (∀ n, ¬ check2 image n) ∧ (∀ m, ¬ check3 image m) ∧
    ¬ (image.profile.role = .master ∧ image.profile.roundPeriod < image.profile.slotCount.leastPeriod) := by
  decide +kernel

theorem test_Commit_checks_met : check1 (wrong 1) 5 ∧ (∀ j : Fin 64, j < 5 → ¬ check1 (wrong 1) j) ∧
    (∀ n, ¬ check1 (wrong 2) n) ∧ check2 (wrong 2) 63 ∧ (∀ j : Fin 64, j < 63 → ¬ check2 (wrong 2) j) := by
  decide +kernel

theorem test_Commit_identifier_met : (∀ n, ¬ check1 (wrong 3) n) ∧ (∀ n, ¬ check2 (wrong 3) n) ∧ check3 (wrong 3) 31 ∧
    (∀ j : Fin 32, j < 31 → ¬ check3 (wrong 3) j) := by decide +kernel

theorem test_Commit_period_met : (∀ n, ¬ check1 (wrong 4) n) ∧ (∀ n, ¬ check2 (wrong 4) n) ∧ (∀ m, ¬ check3 (wrong 4) m) ∧
    (wrong 4).profile.role = .master ∧ (wrong 4).profile.roundPeriod < (wrong 4).profile.slotCount.leastPeriod := by
  decide +kernel

theorem test_Cancel_met : taking .cancel [15, 7] (frozen (asked [15, 7])) = true ∧
    (frozen (asked [15, 7])).finish.engine.owner = some 7 ∧
    (frozen (asked [15, 7])).finish.engine.commit = some { tag := 7, entry := 3 } ∧
    (frozen (asked [15, 7])).finish.freeReply = some 0 ∧ taking .cancel [15, 7] (editing (asked [15, 7])) = true ∧
    (editing (asked [15, 7])).finish.engine.commit = none ∧ taking .cancel [15, 8] (editing (asked [15, 8])) = true ∧
    taking .cancel [15, 7] (asked [15, 7]) = true ∧ (asked [15, 7]).finish.engine.lastCommit ≠ some 7 ∧
    taking .cancel [15, 7] { asked [15, 7] with
      engine := { (asked [15, 7]).engine with lastCommit := some 7 } } = true := by decide +kernel

theorem test_Snapshot_met : taking .snapshot [0x13, 1] (asked [0x13, 1]) = true ∧
    (called [0x13, 0]).finish.takes .snapshot { broadcast := true, data := [0x13, 0] } [] ∧
    (asked [0x13, 1]).finish.queueLaw ∧ (called [0x13, 0]).finish.queueLaw := by
  unfold State.queueLaw
  decide +kernel

/-- SNAPSHOT_READY enabled, latched or not. -/
def readying (is : Bool) (s : State) : State :=
  { s with notices := { s.notices with enabled := 0x40, latched := if is then 0x40 else 0 } }

theorem test_Snapshot_event_met : (readying true (asked [0x13, 1])).finish.notices.latched = 0x40 ∧
    (after .snapshot (readying true (asked [0x13, 1]))).tx.queued.map (fun e => e.owner) = [.reply 0] ∧
    (after .snapshot (readying false (asked [0x13, 1]))).tx.queued.map (fun e => e.owner) = [.reply 0, .notice] ∧
    (after .snapshot (sending .notice 0 (readying false (asked [0x13, 1])))).notices.deferred = true := by decide +kernel

theorem test_Ack_met : ∀ bytes ∈ ([[0x15, 1, 255, 31], [0x15, 1, 0, 32], [0x15, 1, 0]] : List (List Byte)),
    taking .ackNotices bytes (asked bytes) = true ∧ taking .readAttention [0x17, 1] (asked [0x17, 1]) = true := by
  decide +kernel

/-- Conditions 0 and 11 latched, condition 11 enabled. -/
def latched (s : State) : State := { s with notices := { s.notices with latched := 0x801, enabled := 0x800 } }

theorem test_SetNoticeEnable_met : ∀ bytes ∈ ([[0x16, 1, 1, 31], [0x16, 1, 0, 8], [0x16, 1, 0, 32], [0x16, 1, 0]] :
      List (List Byte)), taking .setNoticeEnable bytes (latched (asked bytes)) = true ∧
    taking .setNoticeEnable bytes (sending .notice 0 (latched (asked bytes))) = true ∧
    (latched (asked bytes)).finish.hasInFlight Owner.isNotice = false ∧
    (sending .notice 0 (latched (asked bytes))).finish.hasInFlight Owner.isNotice = true ∧
    (latched (asked bytes)).finish.queueLaw ∧ (sending .notice 0 (latched (asked bytes))).finish.queueLaw := by
  unfold State.queueLaw
  decide +kernel

theorem test_SetNoticeEnable_offer_met :
    let s := latched (asked [0x16, 1, 1, 31])
    (after .setNoticeEnable s).tx.queued.map (fun e => e.owner) = [.reply 0, .notice] ∧
    (after .setNoticeEnable (s.place .notice)).tx.queued.map (fun e => e.owner) = [.notice, .reply 0] ∧
    (after .setNoticeEnable (sending .notice 0 s)).notices.deferred = true ∧
    (after .setNoticeEnable (latched (asked [0x16, 1, 0, 8]))).tx.queued.map (fun e => e.owner) = [.reply 0] := by
  decide +kernel

theorem test_Rows_met : ({ broadcast := false, data := [0x11, 0, 0, 1] } : Request).row = .capture ∧
    ({ broadcast := false, data := [0x11, 0, 0, 3] } : Request).row = .readMailboxPart0 ∧
    ({ broadcast := false, data := [0x11, 0, 0] } : Request).row = .readMailboxPart0 ∧
    ({ broadcast := false, data := [0x19, 0] } : Request).row = .unknownRequest ∧
    ({ broadcast := true, data := [0x02, 0] } : Request).row = .broadcastDiscard ∧
    ({ broadcast := true, data := [0x03, 63, 1, 2, 3, 4, 5, 6] } : Request).row = .assign ∧
    ({ broadcast := true, data := [0x03, 64, 1, 2, 3, 4, 5, 6] } : Request).row = .broadcastDiscard ∧
    ({ broadcast := true, data := [0x18, 0] } : Request).row = .broadcastDiscard := by decide

/-- A master's round just begun. -/
def emitting : State := after (.roundTimerExpiry BoundaryOrder.standard) master

theorem test_MasterRound_met : emitting.ring.outRound =
      some { start := 16000, slots := 8, next := 0, mark := markOf 6 8, sending := none } ∧
    ¬ 25 * 16000 + 256 * (4 + 10 * 0) ≤ 25 * (16 * 1002) ∧ 25 * 16000 + 256 * (4 + 10 * 0) ≤ 25 * (16 * 1003) ∧
    25 * 16000 + 256 * (4 + 10 * 8) ≤ 25 * (16 * 1054) ∧ (emitting.active.slot 0).role = .drive ∧
    (emitting.active.slot 1).role ≠ .drive ∧ (emitting.advanceTo (16 * 1054)).rout.length = 9 ∧
    (emitting.advanceTo (16 * 1003)).rout.length = 1 := by decide +kernel

theorem test_MasterRound_lawful_met : emitting.active.lawful := by
  unfold Image.lawful
  decide +kernel

/-- The state after reset with a command at the front of its queue. -/
def start : State := { State.reset with pending := [.frameStart 0] }

theorem test_StepKeeps_met : (∃ t, step start = .next t) ∧ start.queueLaw ∧ start.singleLaw ∧ start.requestLaw ∧
    start.ringLaw ∧ start.busLaw := by
  refine ⟨⟨_, rfl⟩, ?_⟩
  unfold State.queueLaw State.singleLaw State.requestLaw State.ringLaw State.busLaw
  decide +kernel

theorem test_StepKeeps_session_met : start.sessionLaw := by
  unfold State.sessionLaw
  refine ⟨fun _ => rfl, ?_, by decide +kernel, ?_⟩
  · intro c hc
    cases hc
  · intro b hb
    cases hb

theorem test_StepKeeps_images_met : start.imageLaw := by
  have h : Image.default.inRange := by
    unfold Image.inRange
    decide +kernel
  have l : Image.default.lawful := by
    unfold Image.lawful
    decide +kernel
  exact ⟨h, h, l, fun _ => l⟩

end Sys2Proof.Tests
end

section
/-! Feed ageing at a round boundary (02, R29, R30). Ageing at one mailbox is said once, by its three cases, with what it
leaves alone at another; the work of a boundary is the fold of it over all mailboxes. -/

namespace Sys2Proof.Machine

/-- A FEED mailbox that the boundary ages (02, R29). -/
def State.agesFeed (s : State) (m : Fin 32) : Prop :=
  (s.config m).kind = .feed ∧ ((s.box m).state = .fresh ∨ (s.box m).state = .held)

/-- The next age of the mailbox is its non-zero limit (02, R30). -/
def State.reachesLimit (s : State) (m : Fin 32) : Prop :=
  (s.config m).limit ≠ 0 ∧ satSucc (s.box m).age = (s.config m).limit

/-! ### Ageing at one mailbox -/

theorem ageFeed_of_reachesLimit {s : State} {m : Fin 32} (ha : s.agesFeed m) (hl : s.reachesLimit m) :
    s.ageFeed m = ((s.setBox m { s.box m with age := satSucc (s.box m).age, state := .stale }).count
      (counterC m)).markAttention m :=
  (if_pos ha).trans (if_pos hl)

theorem ageFeed_of_not_reachesLimit {s : State} {m : Fin 32} (ha : s.agesFeed m) (hl : ¬ s.reachesLimit m) :
    s.ageFeed m = s.setBox m { s.box m with age := satSucc (s.box m).age } :=
  (if_pos ha).trans (if_neg hl)

theorem ageFeed_of_not_agesFeed {s : State} {m : Fin 32} (ha : ¬ s.agesFeed m) : s.ageFeed m = s :=
  if_neg ha

/-- What ageing does at mailbox m (02, R29, R30). -/
structure FeedAged (m : Fin 32) (s t : State) : Prop where
  stale : s.agesFeed m → s.reachesLimit m →
    t.box m = { s.box m with age := satSucc (s.box m).age, state := .stale } ∧
      t.live (counterC m) = satSucc (s.live (counterC m)) ∧
      ((s.config m).attention = true → t.notices.attention.getLsbD m.val = true)
  older : s.agesFeed m → ¬ s.reachesLimit m →
    t.box m = { s.box m with age := satSucc (s.box m).age } ∧ t.live (counterC m) = s.live (counterC m)
  kept : ¬ s.agesFeed m → t.box m = s.box m ∧ t.live (counterC m) = s.live (counterC m)

/-- Two states agree at mailbox m on all that ageing there reads and writes. -/
structure SameFeed (m : Fin 32) (s t : State) : Prop where
  config : t.config m = s.config m
  box : t.box m = s.box m
  live : t.live (counterC m) = s.live (counterC m)
  attention : t.notices.attention.getLsbD m.val = s.notices.attention.getLsbD m.val

theorem SameFeed.refl (m : Fin 32) (s : State) : SameFeed m s s := ⟨rfl, rfl, rfl, rfl⟩

theorem SameFeed.trans {m : Fin 32} {s t u : State} (h : SameFeed m s t) (g : SameFeed m t u) : SameFeed m s u :=
  ⟨g.config.trans h.config, g.box.trans h.box, g.live.trans h.live, g.attention.trans h.attention⟩

/-- The ageing of mailbox m stands when what comes before and after leaves that mailbox alone. -/
theorem FeedAged.between {m : Fin 32} {s s' t t' : State} (hs : SameFeed m s s') (h : FeedAged m s' t)
    (ht : SameFeed m t t') : FeedAged m s t' := by
  obtain ⟨stale, older, kept⟩ := h
  simp only [State.agesFeed, State.reachesLimit, hs.config, hs.box, hs.live] at stale older kept
  constructor
  · rw [ht.box, ht.live, ht.attention]
    exact stale
  · rw [ht.box, ht.live]
    exact older
  · rw [ht.box, ht.live]
    exact kept

theorem markAttention_box (m j : Fin 32) (s : State) : (s.markAttention m).box j = s.box j :=
  box_congr (by simp) j

theorem markAttention_live (m : Fin 32) (k : Fin 111) (s : State) : (s.markAttention m).live k = s.live k :=
  live_congr (by simp) k

theorem markAttention_bit (m : Fin 32) (s : State) (h : (s.config m).attention = true) :
    (s.markAttention m).notices.attention.getLsbD m.val = true := by
  rw [markAttention_attention m s h, twoPow_bit]
  exact Or.inr rfl

theorem ageFeed_ages (m : Fin 32) (s : State) : FeedAged m s (s.ageFeed m) where
  stale ha hl := by
    rw [ageFeed_of_reachesLimit ha hl]
    refine ⟨?_, ?_, fun hm => ?_⟩
    · rw [markAttention_box, box_congr (count_boxes _ _), setBox_box_self]
    · rw [markAttention_live, count_live_self, live_congr (setBox_counters m _ s)]
    · refine markAttention_bit m _ ?_
      exact hm
  older ha hl := by
    rw [ageFeed_of_not_reachesLimit ha hl]
    exact ⟨setBox_box_self m _ s, rfl⟩
  kept ha := by
    rw [ageFeed_of_not_agesFeed ha]
    exact ⟨rfl, rfl⟩

theorem setBox_sameFeed {m j : Fin 32} (hj : j ≠ m) (b : Runtime) (s : State) : SameFeed j s (s.setBox m b) :=
  ⟨rfl, setBox_box_other hj b s, rfl, rfl⟩

theorem count_sameFeed {m j : Fin 32} (hj : j ≠ m) (s : State) : SameFeed j s (s.count (counterC m)) :=
  ⟨rfl, rfl, count_live_other (by simp only [counterC, ne_eq, Fin.mk.injEq]; omega) s, rfl⟩

theorem markAttention_sameFeed {m j : Fin 32} (hj : j ≠ m) (s : State) : SameFeed j s (s.markAttention m) :=
  ⟨config_congr (by simp) j, markAttention_box m j s, markAttention_live m _ s, (markAttention_only m s).attention j hj⟩

/-- Ageing at mailbox m leaves every other mailbox alone. -/
theorem ageFeed_sameFeed {m j : Fin 32} (hj : j ≠ m) (s : State) : SameFeed j s (s.ageFeed m) := by
  by_cases ha : s.agesFeed m
  · by_cases hl : s.reachesLimit m
    · rw [ageFeed_of_reachesLimit ha hl]
      exact ((setBox_sameFeed hj _ s).trans (count_sameFeed hj _)).trans (markAttention_sameFeed hj _)
    · rw [ageFeed_of_not_reachesLimit ha hl]
      exact setBox_sameFeed hj _ s
  · rw [ageFeed_of_not_agesFeed ha]
    exact SameFeed.refl j s

/-! ### Ageing at the mailboxes of a list -/

theorem ageFeeds_sameFeed {l : List (Fin 32)} {j : Fin 32} (hj : j ∉ l) (s : State) :
    SameFeed j s (l.foldl (fun s m => s.ageFeed m) s) := by
  induction l generalizing s with
  | nil => exact SameFeed.refl j s
  | cons m l ih =>
    obtain ⟨hm, hl⟩ := List.ne_and_not_mem_of_not_mem_cons hj
    exact (ageFeed_sameFeed hm s).trans (ih hl _)

theorem ageFeeds_ages {l : List (Fin 32)} (hl : l.Nodup) {j : Fin 32} (hj : j ∈ l) (s : State) :
    FeedAged j s (l.foldl (fun s m => s.ageFeed m) s) := by
  induction l generalizing s with
  | nil => simp at hj
  | cons m l ih =>
    obtain ⟨hm, hl⟩ := List.nodup_cons.mp hl
    rw [List.foldl_cons]
    rcases List.mem_cons.mp hj with rfl | hj
    · exact (ageFeed_ages j s).between (SameFeed.refl j s) (ageFeeds_sameFeed hm _)
    · have hne : j ≠ m := fun e => hm (e ▸ hj)
      exact (ih hl hj _).between (ageFeed_sameFeed hne s) (SameFeed.refl j _)

/-! ### The work of a boundary -/

theorem work_feedAgeing (s : State) : (s.work .feedAgeing).1 = allBoxes.foldl (fun s m => s.ageFeed m) s := by
  simp only [State.work]

theorem work_feedAgeing_ages (m : Fin 32) (s : State) : FeedAged m s (s.work .feedAgeing).1 := by
  rw [work_feedAgeing]
  exact ageFeeds_ages (List.nodup_finRange 32) (List.mem_finRange m) s

theorem work_feedAgeing_engine (s : State) : (s.work .feedAgeing).1.engine = s.engine := by
  rw [work_feedAgeing]
  exact foldl_keeps (f := State.engine) (fun s m => by simp) allBoxes s

/-- Settles O29: ageing at one mailbox, carried along the fold over all of them. -/
theorem feedAgeing : Obligations.FeedAgeing := by
  intro s m
  obtain ⟨stale, older, kept⟩ := work_feedAgeing_ages m s
  exact ⟨stale, older, kept, by simp, by simp, work_feedAgeing_engine s, by simp, by simp⟩

end Sys2Proof.Machine
end

section
/-! A traffic frame at the bus port and at the mailboxes (02, R20 to R25; 07, R113 to R115, R121). A good reception is what
the port hears of any good frame, then the classification; for traffic that is the offer to the match unit. -/

namespace Sys2Proof.Machine

/-! ### What the port hears of a good frame -/

/-- A good reception up to the classification of its frame (07, R113, R115, R121). -/
def State.heard (u : State) : State :=
  (State.count Counter.goodFrames (State.acknowledge { u with bus := { u.bus with line := .idle } })).countGood

theorem frameEnds_good {u : State} (hu : u.bus.unheard = false) (f : Frame) :
    u.frameEnds (.good f) = u.heard.classify f := by
  unfold State.frameEnds
  rw [hu]
  rfl

/-- The good frame that ends SILENT: the 64th in a row (07, R121). -/
def State.lastGood (u : State) : Prop := u.bus.port = .silent ∧ 64 ≤ u.bus.goods + 1

theorem heard_active {u : State} (hp : u.bus.port = .active) : u.heard = { u with
    bus := { u.bus with line := .idle }
    counters := (u.count 101).counters
    btx := u.btx ++ [.acknowledge] } := by
  simp only [State.heard, State.acknowledge, State.countGood, State.count, State.emitBus, hp]
  rfl

theorem heard_counting {u : State} (hp : u.bus.port = .silent) (hg : ¬ 64 ≤ u.bus.goods + 1) : u.heard = { u with
    bus := { u.bus with line := .idle, goods := u.bus.goods + 1 }
    counters := (u.count 101).counters } := by
  have hg' : ¬ Config.resumeGoods ≤ u.bus.goods + 1 := hg
  simp only [State.heard, State.acknowledge, State.countGood, State.count, hp, hg', if_false]
  rfl

theorem heard_resuming {u : State} (hp : u.bus.port = .silent) (hg : 64 ≤ u.bus.goods + 1) : u.heard =
    State.latch .busResumed { u with
      bus := { u.bus with line := .idle, port := .active, errors := 0, goods := 0 }
      counters := (u.count 101).counters } := by
  have hg' : Config.resumeGoods ≤ u.bus.goods + 1 := hg
  simp only [State.heard, State.acknowledge, State.countGood, State.leaveSilent, State.count, hp, hg', if_true]
  rfl

/-- All that the port's hearing of a good frame can change. -/
structure Heard (u x : State) : Prop where
  frame : x = { u with
    tx := { u.tx with queued := x.tx.queued }
    bus := x.bus
    notices := { u.notices with
      latched := x.notices.latched, deferred := x.notices.deferred, repeatCount := x.notices.repeatCount }
    counters := (u.count 101).counters
    btx := if u.bus.port = .active then u.btx ++ [.acknowledge] else u.btx }
  active : u.bus.port = .active → x.bus = { u.bus with line := .idle }
  resuming : u.lastGood → x.bus = { u.bus with line := .idle, port := .active, errors := 0, goods := 0 }
  counting : u.bus.port = .silent → ¬ u.lastGood → x.bus = { u.bus with line := .idle, goods := u.bus.goods + 1 }
  flight : x.bus.flight = u.bus.flight

theorem heard_hears (u : State) : Heard u u.heard := by
  cases hp : u.bus.port with
  | active =>
    have hl : ¬ u.lastGood := fun h => by simp [State.lastGood, hp] at h
    rw [heard_active hp]
    exact ⟨by simp [hp], fun _ => rfl, fun h => absurd h hl, fun h => by simp [hp] at h, rfl⟩
  | silent =>
    by_cases hg : 64 ≤ u.bus.goods + 1
    · rw [heard_resuming hp hg, latch_eq]
      exact ⟨by simp [hp], fun h => by simp [hp] at h, fun _ => rfl, fun _ h => absurd ⟨hp, hg⟩ h, rfl⟩
    · rw [heard_counting hp hg]
      exact ⟨by simp [hp], fun h => by simp [hp] at h, fun h => absurd h.2 hg, fun _ _ => rfl, rfl⟩

/-- The 64th good frame in a row is a condition event of BUS_RESUMED (07, R121; 10, R174). -/
theorem heard_conditionEvent {u : State} (hs : ∀ e ∈ u.tx.queued, e.stamp < u.tx.epoch * 64) :
    u.conditionEvent [] .busResumed u.lastGood u.heard := by
  have hs' (_ : u.hasQueued Owner.isNotice = false) (e : Entry) (he : e ∈ u.tx.queued) :
      e.stamp < u.tx.epoch * 64 + 40 := Nat.lt_add_right 40 (hs e he)
  cases hp : u.bus.port with
  | active =>
    rw [heard_active hp]
    exact conditionEvent_none (fun h => by simp [State.lastGood, hp] at h) ((placedInOrder_nil _ _).mpr rfl) rfl
  | silent =>
    by_cases hg : 64 ≤ u.bus.goods + 1
    · rw [heard_resuming hp hg]
      exact conditionEvent_latch ⟨hp, hg⟩ ((placedInOrder_nil _ _).mpr rfl) (by simp) rfl hs' rfl
    · rw [heard_counting hp hg]
      exact conditionEvent_none (fun h => hg h.2) ((placedInOrder_nil _ _).mpr rfl) rfl

/-- A condition event that places nothing else leaves the queue as it was, or a NOTICE entry in it. -/
theorem queued_of_conditionEvent {c : Condition} {happens : Prop} {u v : State} (h : u.conditionEvent [] c happens v)
    (hn : v.hasQueued Owner.isNotice = false) : v.tx.queued = u.tx.queued := by
  obtain ⟨-, -, -, -, hplaced, hkept⟩ := h
  by_contra hq
  have hmade := fun hc => hq ((placedInOrder_nil u v).mp (hkept hc).2)
  obtain ⟨-, es, howners, -, hes, -⟩ := hplaced (not_not.mp hmade)
  obtain ⟨e, rfl, he⟩ := List.map_eq_singleton_iff.mp howners
  simp [State.hasQueued, hes, he, Owner.isNotice] at hn

theorem found_tx (t : Nat) (s : State) :
    (s.found t).tx = { (s.ripe t).tx with epoch := (s.ripe t).tx.epoch + 1, placed := 0 } := by
  have h : ((s.ripe t).advanceTo t).tx = (s.ripe t).tx := by simp
  simp only [State.found, State.newEvent, h]

/-- What is queued was placed before the event that finds the part (06, R98). -/
theorem found_stamps {t : Nat} {s : State} (h : (s.ripe t).queueLaw) :
    ∀ e ∈ (s.found t).tx.queued, e.stamp < (s.found t).tx.epoch * 64 := by
  obtain ⟨hqueued, -, -⟩ := h
  rw [found_tx]
  intro e he
  exact Nat.mul_comm 64 _ ▸ hqueued e he

/-! ### Traffic -/

theorem classify_traffic {f : Frame} (hf : f.id ≤ 0xEFF) (s : State) : s.classify f = s.offerToMatch f :=
  if_pos hf

/-- Traffic is no request to this node (07, R114, R122). -/
theorem not_resumesBus {f : Frame} (hf : f.id ≤ 0xEFF) (u : State) : ¬ u.resumesBus f := by
  rintro ⟨-, hid, -, -⟩
  have hle : f.id.toNat ≤ 0xEFF := hf
  omega

/-- All that the offer of a frame to the match unit can change. -/
theorem offerToMatch_eq (f : Frame) (s : State) : s.offerToMatch f = { s with
    boxes := (s.offerToMatch f).boxes
    tx := { s.tx with queued := (s.offerToMatch f).tx.queued }
    engine := (s.offerToMatch f).engine
    notices := { s.notices with
      latched := (s.offerToMatch f).notices.latched, deferred := (s.offerToMatch f).notices.deferred
      repeatCount := (s.offerToMatch f).notices.repeatCount, attention := (s.offerToMatch f).notices.attention }
    counters := { s.counters with live := (s.offerToMatch f).counters.live } } := by
  have hw := offerToMatch_walks f s
  obtain ⟨hnow, hclosed, hheld, hactive, hstaging, hring, hbus, hboundary, hdue, hrout, hbtx, hpending⟩ :=
    offerToMatch_frame f s
  generalize s.offerToMatch f = t at *
  have hnote : t.tx = { s.tx with queued := t.tx.queued } ∧ t.notices = { s.notices with
      latched := t.notices.latched, deferred := t.notices.deferred
      repeatCount := t.notices.repeatCount, attention := t.notices.attention } := by
    by_cases hc : s.notices.attention = 0 ∧
        ∃ m, s.takesFrame f m ∧ (s.box m).state = .fresh ∧ (s.config m).attention = true
    · obtain ⟨htx, hn⟩ := hw.latched hc
      rw [htx, hn, latch_eq]
      exact ⟨rfl, rfl⟩
    · obtain ⟨htx, hn⟩ := hw.unlatched hc
      rw [htx, hn]
      exact ⟨rfl, rfl⟩
  obtain ⟨htx, hn⟩ := hnote
  exact State.ext hnow hclosed hheld rfl hactive hstaging hring htx hbus rfl hn hw.counters hboundary hdue hrout hbtx
    hpending

/-- The part between the two condition events of a good frame: the queue and the notice unit are those of `x`, all else is
still that of `u` (07, R121). -/
def State.noted (u x : State) : State := { u with
  tx := { u.tx with queued := x.tx.queued }
  notices := { u.notices with
    latched := x.notices.latched, deferred := x.notices.deferred, repeatCount := x.notices.repeatCount } }

theorem Heard.notices {u x : State} (h : Heard u x) : x.notices = (u.noted x).notices := by
  rw [h.frame]
  rfl

theorem Heard.epoch {u x : State} (h : Heard u x) : x.tx.epoch = u.tx.epoch := by
  rw [h.frame]

theorem Heard.boxes {u x : State} (h : Heard u x) : x.boxes = u.boxes := by
  rw [h.frame]

theorem Heard.image {u x : State} (h : Heard u x) : x.active = u.active := by
  rw [h.frame]

theorem Heard.engine {u x : State} (h : Heard u x) : x.engine = u.engine := by
  rw [h.frame]

theorem Heard.live {u x : State} (h : Heard u x) (k : Fin 111) : x.live k = (u.count 101).live k :=
  live_congr (by rw [h.frame]) k

/-- The overwrites under attention enable are a condition event of ATTENTION on what the port has heard (10, R182). -/
theorem Heard.conditionEvent {f : Frame} {u x : State} (h : Heard u x)
    (hs : ∀ e ∈ u.tx.queued, e.stamp < u.tx.epoch * 64) (hc : u.conditionEvent [] .busResumed u.lastGood x) :
    (u.noted x).conditionEvent [] .attention (u.matchAttends f True) (x.offerToMatch f) := by
  have hflight : x.hasInFlight Owner.isNotice = (u.noted x).hasInFlight Owner.isNotice := by
    simp only [State.hasInFlight, inFlight_congr h.flight, State.noted]
    rfl
  have hstamps : (u.noted x).hasQueued Owner.isNotice = false → ∀ e ∈ x.tx.queued, e.stamp < x.tx.epoch * 64 + 40 := by
    intro hn e he
    rw [queued_of_conditionEvent hc hn] at he
    rw [h.epoch]
    exact Nat.lt_add_right 40 (hs e he)
  exact conditionEvent_of_walks (u := u.noted x) trivial (offerToMatch_walks f x) h.image
    (fun j _ => box_congr h.boxes j) ((placedInOrder_nil _ _).mpr rfl) (by simp) hflight hstamps h.notices

/-- What a traffic frame leaves of the port, the queue and the notice unit (07, R113, R121; 10, R182). -/
theorem Heard.hears {f : Frame} {u x : State} (h : Heard u x) (hf : f.id ≤ 0xEFF)
    (hs : ∀ e ∈ u.tx.queued, e.stamp < u.tx.epoch * 64) (hc : u.conditionEvent [] .busResumed u.lastGood x) :
    u.hears f .attention (u.matchAttends f True) (x.offerToMatch f) := by
  have hends : (u.bus.port = .silent ∧ (u.resumesBus f ∨ 64 ≤ u.bus.goods + 1)) ↔ u.lastGood := by
    simp only [State.lastGood, not_resumesBus hf u, false_or]
  have hbus : (x.offerToMatch f).bus = x.bus := by simp
  have hnoted : u.conditionEvent [] .busResumed u.lastGood (u.noted x) :=
    conditionEvent_congr hc rfl (by rw [h.notices])
  simp only [State.hears, hends, hbus]
  exact ⟨h.active, h.resuming, h.counting, u.noted x, hnoted, h.conditionEvent hs hc, rfl⟩

/-- Counter 101 is none of a mailbox's (10, R184). -/
theorem Heard.live_of_lt {u x : State} (h : Heard u x) {k : Fin 111} (hk : k.val < 96) : x.live k = u.live k := by
  rw [h.live, count_live_other (fun e => by simp [e] at hk)]

theorem Heard.matchedAt {u x : State} (h : Heard u x) (f : Frame) (m : Fin 32) :
    u.matchedAt f True m (x.offerToMatch f) :=
  matchedAt_of_walks trivial (offerToMatch_walks f x) h.image (box_congr h.boxes m)
    (h.live_of_lt (by simp only [counterA]; omega)) (h.live_of_lt (by simp only [counterB]; omega))
    (h.live_of_lt (by simp only [counterC]; omega))

theorem Heard.matchMarks {u x : State} (h : Heard u x) (f : Frame) : u.matchMarks f True (x.offerToMatch f) :=
  matchMarks_of_walks trivial (offerToMatch_walks f x) h.image (fun j _ => box_congr h.boxes j) h.engine
    (by rw [h.notices]; rfl)

theorem Heard.offerToMatch_eq {u x : State} (h : Heard u x) (f : Frame) : x.offerToMatch f = { u with
    boxes := (x.offerToMatch f).boxes
    tx := { u.tx with queued := (x.offerToMatch f).tx.queued }
    bus := (x.offerToMatch f).bus
    engine := (x.offerToMatch f).engine
    notices := { u.notices with
      latched := (x.offerToMatch f).notices.latched, deferred := (x.offerToMatch f).notices.deferred
      repeatCount := (x.offerToMatch f).notices.repeatCount, attention := (x.offerToMatch f).notices.attention }
    counters := { u.counters with live := (x.offerToMatch f).counters.live }
    btx := if u.bus.port = .active then u.btx ++ [.acknowledge] else u.btx } := by
  have hbus : (x.offerToMatch f).bus = x.bus := by simp
  have ht := Machine.offerToMatch_eq f x
  rw [hbus]
  generalize x.offerToMatch f = t at ht ⊢
  rw [ht, h.frame]
  rfl

/-- A good traffic frame that the part receives is heard and offered to the match unit (07, R113, R114). -/
theorem exec_frameArrival_traffic {time : Nat} {f : Frame} {s : State} (ht : s.inTime (16 * time))
    (hr : (s.found (16 * time)).receives) (hf : f.id ≤ 0xEFF) :
    exec (.frameArrival time (.good f)) s = .next ((s.found (16 * time)).heard.offerToMatch f) := by
  obtain ⟨hline, hheard⟩ := hr
  have hon : (s.ripe (16 * time)).frameOnBus = true := by
    have hbus : (s.found (16 * time)).bus = (s.ripe (16 * time)).bus := by simp
    rw [State.frameOnBus, ← hbus, hline]
    rfl
  rw [← classify_traffic hf, ← frameEnds_good hheard]
  exact congrArg _ (atTime_of_occurs ht hon)

/-- Settles O8: the frame is heard, then the walk of the match unit stores it. -/
theorem trafficFrameIsStored : Obligations.TrafficFrameIsStored := by
  intro time f s ht u hr hf hq
  have h := heard_hears u
  have hs := found_stamps hq
  have hw := offerToMatch_walks f u.heard
  refine ⟨u.heard.offerToMatch f, exec_frameArrival_traffic ht hr hf, h.matchedAt f, h.matchMarks f,
    h.hears hf hs (heard_conditionEvent hs), ?_, fun k hk hne => ?_, h.offerToMatch_eq f⟩
  · rw [hw.high 101 (by decide), h.live, count_live_self]
  · rw [hw.high k hk, h.live, count_live_other hne]

end Sys2Proof.Machine
end

section
/-! The images of the configuration through every step (03, R40, R42; 09, R154, R164, R166). An operation keeps the law
where it leaves both images and the pending commit alone; the exceptions are the resets, the edits of the staging image, an
accepted COMMIT and the swap. -/

namespace Sys2Proof.Machine

/-- Nothing the law of the images speaks of changes. -/
structure SameImages (s t : State) : Prop where
  active : t.active = s.active
  staging : t.staging = s.staging
  commit : t.engine.commit = s.engine.commit

theorem SameImages.imageLaw {s t : State} (h : SameImages s t) (hs : s.imageLaw) : t.imageLaw := by
  simp only [State.imageLaw, h.active, h.staging, h.commit]
  exact hs

/-- While no commit is pending, staging has to be in range alone. -/
theorem imageLaw_of_unfrozen {s t : State} (hs : s.imageLaw) (ha : t.active = s.active) (ht : t.staging.inRange)
    (hc : t.engine.commit = none) : t.imageLaw := by
  obtain ⟨active_inRange, -, active_lawful, -⟩ := hs
  exact ⟨ha ▸ active_inRange, ht, ha ▸ active_lawful, fun h => by simp [hc] at h⟩

/-! ### The images after a reset -/

theorem default_inRange : Image.default.inRange := by
  simp [Image.inRange, Image.default, MailboxConfig.default, Profile.default]

theorem default_lawful : Image.default.lawful := by
  simp [Image.lawful, Image.default, MailboxConfig.default, Profile.default]

theorem imageLaw_of_default {s : State} (ha : s.active = Image.default) (hs : s.staging = Image.default)
    (hc : s.engine.commit = none) : s.imageLaw := by
  refine ⟨?_, ?_, ?_, fun h => ?_⟩
  · rw [ha]; exact default_inRange
  · rw [hs]; exact default_inRange
  · rw [ha]; exact default_lawful
  · simp [hc] at h

theorem performRestart_imageLaw (s : State) : s.performRestart.imageLaw :=
  imageLaw_of_default rfl rfl rfl

theorem releaseReset_imageLaw (straps : Straps) (s : State) : (s.releaseReset straps).imageLaw :=
  imageLaw_of_default rfl rfl rfl

theorem applyPower_imageLaw (straps : Straps) (busy asserted : Bool) (s : State) :
    (s.applyPower straps busy asserted).imageLaw := by
  cases asserted <;> exact imageLaw_of_default rfl rfl rfl

/-! ### The works and the steps of a boundary -/

theorem work_sameImages (w : BoundaryWork) (s : State) : SameImages s (s.work w).1 :=
  ⟨by simp, by simp, by rw [work_engine]⟩

theorem closeBoundary_sameImages (cause : BoundaryCause) (s : State) : SameImages s (s.closeBoundary cause) :=
  ⟨by simp, by simp, by simp⟩

/-- The swap installs a staging image that is lawful because its commit is pending (09, R164, R167). -/
theorem swapPending_imageLaw {s : State} (n : Byte) (hs : s.imageLaw) : (s.swapPending n).imageLaw := by
  unfold State.swapPending
  cases hc : s.engine.commit with
  | none => exact hs
  | some c =>
    obtain ⟨-, staging_inRange, -, staging_lawful⟩ := hs
    obtain ⟨staging_kept, installed, -⟩ := swapCommit_images c n s
    have lawful : s.staging.lawful := staging_lawful (by rw [hc]; rfl)
    have closed : (s.swapCommit c n).engine.commit = none := by rw [swapCommit_engine]
    exact ⟨installed ▸ staging_inRange, staging_kept ▸ staging_inRange, installed ▸ lawful, fun h => by simp [closed] at h⟩

/-- A session that expires leaves staging equal to active (09, R159). -/
theorem expireSession_imageLaw {s : State} (hs : s.imageLaw) : s.expireSession.imageLaw := by
  obtain ⟨active_inRange, -, active_lawful, -⟩ := hs
  have active_kept : s.expireSession.active = s.active := by simp
  have discarded : s.expireSession.staging = s.active := by simp [State.expireSession]
  refine ⟨?_, ?_, ?_, fun _ => ?_⟩
  · rwa [active_kept]
  · rwa [discarded]
  · rwa [active_kept]
  · rwa [discarded]

theorem performDue_imageLaw {s : State} (d : DueStep) (n : Byte) (hs : s.imageLaw) : (s.performDue d n).imageLaw := by
  cases d with
  | swap => exact swapPending_imageLaw n hs
  | sessionExpiry => exact expireSession_imageLaw hs
  | snapshotExpiry => exact SameImages.imageLaw (s := s) (t := s.takeSnapshot) ⟨by simp, by simp, by simp⟩ hs
  | repeatExpiry => exact SameImages.imageLaw (s := s) (t := s.expireRepeat) ⟨by simp, by simp, by simp⟩ hs

theorem imageLaw_keptByBoundary : KeptByBoundary State.imageLaw where
  current _ _ hs := hs
  close cause s hs := (closeBoundary_sameImages cause s).imageLaw hs
  work w s hs := (work_sameImages w s).imageLaw hs
  wait w _ s hs _ := (work_sameImages w s).imageLaw hs
  within w d n s hs _ := performDue_imageLaw d n ((work_sameImages w s).imageLaw hs)
  due b _ hs _ := performDue_imageLaw b.due b.number hs

/-! ### Marks and expiries, which raise a boundary -/

theorem acceptMark_imageLaw {s : State} (time : Nat) (m : RoundMark) (order : BoundaryOrder) (hs : s.imageLaw) :
    (s.acceptMark time m order).imageLaw := by
  unfold State.acceptMark
  dsimp only
  split
  · exact imageLaw_keptByBoundary.raiseBoundary _ _ _ _ hs
  · exact hs

theorem enterLocked_sameImages (period : Nat) (s : State) : SameImages s (s.enterLocked period) :=
  ⟨by simp, by simp, by simp⟩

theorem miss_sameImages (advance : Bool) (x : Byte) (s : State) : SameImages s (s.miss advance x) :=
  ⟨by simp, by simp, by simp⟩

theorem judgeMark_imageLaw {s : State} (time : Nat) (m : RoundMark) (order : BoundaryOrder) (hs : s.imageLaw) :
    (s.judgeMark time m order).imageLaw := by
  unfold State.judgeMark
  cases s.ring.lock with
  | hunt => exact hs
  | confirm =>
    dsimp only
    split
    · split
      · exact acceptMark_imageLaw _ _ _ ((enterLocked_sameImages _ s).imageLaw hs)
      · exact hs
    · exact hs
  | locked =>
    dsimp only
    split
    · split
      · exact acceptMark_imageLaw _ _ _ hs
      · exact (miss_sameImages _ _ s).imageLaw hs
    · exact (miss_sameImages _ _ s).imageLaw hs

theorem markArrives_imageLaw {s : State} (time : Nat) (m : RoundMark) (order : BoundaryOrder) (hs : s.imageLaw) :
    (s.markArrives time m order).imageLaw := by
  have truncated : s.truncate.imageLaw := SameImages.imageLaw ⟨by simp, by simp, by simp⟩ hs
  have judged : (s.truncate.judgeMark time m order).imageLaw := judgeMark_imageLaw time m order truncated
  have foreign : (s.truncate.foreignMark time m.number).imageLaw :=
    SameImages.imageLaw ⟨by simp, by simp, by simp⟩ truncated
  have bad : (s.truncate.badMark time).imageLaw := SameImages.imageLaw ⟨by simp, by simp, by simp⟩ truncated
  unfold State.markArrives
  dsimp only
  split
  · exact hs
  · split
    · split
      · split
        · exact judged
        · exact foreign
      · exact judged
    · exact bad

theorem masterExpiry_imageLaw {s : State} (order : BoundaryOrder) (hs : s.imageLaw) : (s.masterExpiry order).imageLaw :=
  imageLaw_keptByBoundary.raiseBoundary _ _ _ _ (SameImages.imageLaw (t := s.dropThrough) ⟨by simp, by simp, by simp⟩ hs)

/-! ### The takes of requests -/

/-- The reply entries are no part of the images. -/
theorem answered_imageLaw {h : Request → State → Answer} {r : Request} {s : State}
    (ha : ∀ x : State, x.imageLaw → (h r x).state.imageLaw) (hs : s.imageLaw) : (State.answered h r s).imageLaw := by
  unfold State.answered
  split
  · exact hs
  · exact SameImages.imageLaw ⟨rfl, rfl, rfl⟩ (ha _ (SameImages.imageLaw ⟨rfl, rfl, rfl⟩ hs))

/-- What the action of an edit-class request may do: bring the staging image to another one in range (09, R156). -/
structure Edits (s t : State) : Prop where
  active : t.active = s.active
  staging : s.active.inRange → s.staging.inRange → t.staging.inRange
  commit : t.engine.commit = s.engine.commit

theorem Edits.refl (s : State) : Edits s s := ⟨rfl, fun _ h => h, rfl⟩

/-- The action of an edit-class request is reached only while no commit is pending (09, R156, R166). -/
theorem edit_imageLaw {body : Request → State → Answer} {r : Request} (hb : ∀ x : State, Edits x (body r x).state)
    (need : Nat) {s : State} (hs : s.imageLaw) : (State.edit need body r s).state.imageLaw := by
  have cleared : s.clearIdle.imageLaw := hs
  unfold State.edit
  dsimp only
  split
  · split
    · exact cleared
    · rename_i hc
      split
      · exact cleared
      · obtain ⟨active, staging, commit⟩ := hb s.clearIdle
        obtain ⟨active_inRange, staging_inRange, -, -⟩ := id cleared
        have unfrozen : s.clearIdle.engine.commit = none := by simpa using hc
        exact imageLaw_of_unfrozen cleared active (staging active_inRange staging_inRange) (commit.trans unfrozen)
  · exact hs

theorem bodyCloseEdit_edits (r : Request) (s : State) : Edits s (bodyCloseEdit r s).state :=
  ⟨rfl, fun h _ => h, rfl⟩

/-- A mailbox configuration whose length is in range leaves the image in range. -/
theorem Image.inRange_setBox {i : Image} (h : i.inRange) (m : Fin 32) {c : MailboxConfig} (hc : c.length ≤ 8) :
    ({ i with boxes := i.boxes.set m c } : Image).inRange := by
  obtain ⟨lengths, profile⟩ := h
  refine ⟨fun j => ?_, profile⟩
  by_cases e : j = m
  · subst e
    simpa using hc
  · have hne : m.val ≠ j.val := fun h => e (Fin.ext h.symm)
    simpa [Vector.getElem_set, hne] using lengths j

theorem bodySetMatch_edits (r : Request) (s : State) : Edits s (bodySetMatch r s).state := by
  unfold bodySetMatch
  split
  · exact Edits.refl s
  · dsimp only
    split
    · exact Edits.refl s
    · split
      · exact Edits.refl s
      · exact ⟨rfl, fun _ h => Image.inRange_setBox h _ (h.1 _), rfl⟩

theorem bodySetTiming_edits (r : Request) (s : State) : Edits s (bodySetTiming r s).state := by
  unfold bodySetTiming
  split
  · exact Edits.refl s
  · split
    · exact Edits.refl s
    · rename_i short
      split
      · exact Edits.refl s
      · exact ⟨rfl, fun _ h => Image.inRange_setBox h _ (Nat.not_lt.mp short), rfl⟩

theorem bodySetSlot_edits (r : Request) (s : State) : Edits s (bodySetSlot r s).state := by
  unfold bodySetSlot
  split
  · split
    · exact Edits.refl s
    · split
      · exact Edits.refl s
      · exact ⟨rfl, fun _ h => h, rfl⟩
  · exact Edits.refl s

theorem ranged_eq_some {lo hi v : Nat} {p q : Profile} : ranged lo hi v p = some q ↔ (lo ≤ v ∧ v ≤ hi) ∧ p = q := by
  unfold ranged
  split <;> simp_all

/-- A parameter that a SET_PROFILE sets is in its range (09, R163). -/
theorem Image.inRange_setProfile {i : Image} (h : i.inRange) {selector v : Nat} {p : Profile}
    (hp : i.profile.set selector v = some p) : ({ i with profile := p } : Image).inRange := by
  unfold Profile.set at hp
  split at hp
  case h_2 =>
    obtain ⟨c, -, rfl⟩ := Option.map_eq_some_iff.mp hp
    exact h
  all_goals
    obtain ⟨⟨lo, hi⟩, rfl⟩ := ranged_eq_some.mp hp
    obtain ⟨lengths, profile⟩ := h
    refine ⟨lengths, ?_⟩
    dsimp only
    omega

theorem bodySetProfile_edits (r : Request) (s : State) : Edits s (bodySetProfile r s).state := by
  unfold bodySetProfile
  dsimp only
  split
  · split
    · exact Edits.refl s
    · rename_i hp
      exact ⟨rfl, fun _ h => Image.inRange_setProfile h hp, rfl⟩
  · exact Edits.refl s

/-- A commit is accepted only for a staging image that no check refuses (09, R164, R166). -/
theorem actCommit_imageLaw {s : State} (r : Request) (hs : s.imageLaw) : (actCommit r s).imageLaw := by
  obtain ⟨active_inRange, staging_inRange, active_lawful, -⟩ := id hs
  unfold actCommit
  dsimp only
  split
  · exact hs
  · split
    · split
      · exact hs
      · split
        · exact hs
        · rename_i passed
          exact ⟨active_inRange, staging_inRange, active_lawful, fun _ => Image.lawful_of_failure passed⟩
    · exact hs

/-- A CANCEL withdraws a pending commit, and edits nothing (09, R170). -/
theorem answerCancel_imageLaw (r : Request) {s : State} (hs : s.imageLaw) : (answerCancel r s).state.imageLaw := by
  obtain ⟨-, staging_inRange, -, -⟩ := id hs
  unfold answerCancel
  split
  · split
    · dsimp only
      split
      · exact imageLaw_of_unfrozen hs rfl staging_inRange rfl
      · exact hs
    · exact hs
  · split <;> exact hs


theorem offer_sameImages (s : State) : SameImages s s.offer := ⟨by simp, by simp, by simp⟩

theorem takeSnapshot_sameImages (s : State) : SameImages s s.takeSnapshot := ⟨by simp, by simp, by simp⟩

theorem actAssign_imageLaw {s : State} (r : Request) (hs : s.imageLaw) : (actAssign r s).imageLaw := by
  have placed (x : State) (c : Reply) (hx : x.imageLaw) : (x.placeFreeReply c).imageLaw := by
    unfold State.placeFreeReply
    split <;> exact hx
  unfold actAssign
  dsimp only
  split
  · split
    · exact hs
    · split
      · exact (offer_sameImages _).imageLaw (placed _ _ hs)
      · exact placed _ _ hs
  · exact hs

theorem actRestart_imageLaw {s : State} (r : Request) (hs : s.imageLaw) : (actRestart r s).imageLaw := by
  unfold actRestart
  split
  · exact hs
  · split <;> exact hs

theorem actDiscover_imageLaw {s : State} (r : Request) (hs : s.imageLaw) : (actDiscover r s).imageLaw := by
  unfold actDiscover
  split
  · exact hs
  · split <;> exact hs

theorem answerSetNoticeEnable_imageLaw {s : State} (r : Request) (hs : s.imageLaw) :
    (answerSetNoticeEnable r s).state.imageLaw := by
  unfold answerSetNoticeEnable
  split
  · exact hs
  · split
    · exact hs
    · dsimp only
      split
      · exact hs
      · exact (offer_sameImages _).imageLaw hs

theorem answerOpenEdit_imageLaw {s : State} (r : Request) (hs : s.imageLaw) : (answerOpenEdit r s).state.imageLaw := by
  unfold answerOpenEdit
  split
  · exact hs
  · split
    · exact hs
    · split <;> exact hs

theorem actSnapshot_imageLaw {s : State} (r : Request) (hs : s.imageLaw) : (actSnapshot r s).imageLaw := by
  unfold actSnapshot
  split
  · exact (takeSnapshot_sameImages s).imageLaw hs
  · exact answered_imageLaw (fun x hx => (takeSnapshot_sameImages x).imageLaw hx) hs

theorem act_imageLaw {s : State} (row : TakeRow) (r : Request) (hs : s.imageLaw) : (row.act r s).imageLaw := by
  cases row with
  | probe | resumeBus | readNotices | readAttention | unknownRequest => exact answered_imageLaw (fun _ hx => hx) hs
  | readConfig | readMailboxPart0 | capture | readMailboxPart2 | readCounters | ackNotices =>
    refine answered_imageLaw (fun x hx => ?_) hs
    simp only [answerReadConfig, answerReadMailboxPart0, answerCapture, answerReadMailboxPart2, answerReadCounters,
      answerAckNotices, State.okay, State.refuse]
    (repeat' split) <;> exact hx
  | setNoticeEnable => exact answered_imageLaw (fun _ hx => answerSetNoticeEnable_imageLaw r hx) hs
  | openEdit => exact answered_imageLaw (fun _ hx => answerOpenEdit_imageLaw r hx) hs
  | closeEdit => exact answered_imageLaw (fun _ hx => edit_imageLaw (bodyCloseEdit_edits r) 2 hx) hs
  | setMatch => exact answered_imageLaw (fun _ hx => edit_imageLaw (bodySetMatch_edits r) 8 hx) hs
  | setTiming => exact answered_imageLaw (fun _ hx => edit_imageLaw (bodySetTiming_edits r) 7 hx) hs
  | setSlot => exact answered_imageLaw (fun _ hx => edit_imageLaw (bodySetSlot_edits r) 5 hx) hs
  | setProfile => exact answered_imageLaw (fun _ hx => edit_imageLaw (bodySetProfile_edits r) 5 hx) hs
  | cancel => exact answered_imageLaw (fun _ hx => answerCancel_imageLaw r hx) hs
  | commit => exact actCommit_imageLaw r hs
  | discover => exact actDiscover_imageLaw r hs
  | assign => exact actAssign_imageLaw r hs
  | restart => exact actRestart_imageLaw r hs
  | broadcastDiscard => exact hs
  | snapshot => exact actSnapshot_imageLaw r hs

/-! ### Every step -/

theorem imageLaw_kept : Kept State.imageLaw where
  toKeptByBoundary := imageLaw_keptByBoundary
  pop _ _ hs := hs
  restart s _ := performRestart_imageLaw s
  begin t s hs := SameImages.imageLaw (s := s) ⟨by simp, by simp, by simp⟩ hs
  select s hs _ := SameImages.imageLaw (s := s) ⟨by simp, by simp, by simp⟩ hs
  take r _ _ hs _ _ _ := act_imageLaw r.row r hs
  power straps busy asserted _ _ _ := applyPower_imageLaw straps busy asserted _
  assertReset s hs := SameImages.imageLaw (s := s) ⟨by simp, by simp, by simp⟩ hs
  releaseReset straps s _ := releaseReset_imageLaw straps s
  frameBegins s hs _ := SameImages.imageLaw (s := s) ⟨by simp, by simp, by simp⟩ hs
  frameEnds r s hs _ := SameImages.imageLaw (s := s) ⟨by simp, by simp, by rw [frameEnds_engine]⟩ hs
  lose s hs _ := SameImages.imageLaw (s := s) ⟨by simp, by simp, by simp⟩ hs
  fail s hs _ := SameImages.imageLaw (s := s) ⟨by simp, by simp, by simp⟩ hs
  complete s hs _ := SameImages.imageLaw (s := s) ⟨by simp, by simp, by rw [completeAttempt_engine]⟩ hs
  finished _ _ hs _ := hs
  mark time m order _ hs := markArrives_imageLaw time m order hs
  window s hs _ _ := SameImages.imageLaw (s := s) ⟨by simp, by simp, by simp⟩ hs
  slotBegins s hs := SameImages.imageLaw (s := s) ⟨by simp, by simp, by simp⟩ hs
  slotEnds b s hs := SameImages.imageLaw (s := s) ⟨by simp, by simp, by rw [slotEnds_engine]⟩ hs
  masterExpiry order _ hs _ := masterExpiry_imageLaw order hs
  localExpiry _ _ hs _ := imageLaw_keptByBoundary.raiseBoundary _ _ _ _ hs

/-- Settles O56: every operation a step is made of keeps the law of the images. -/
theorem stepKeepsTheImagesLawful : Obligations.StepKeepsTheImagesLawful :=
  fun _ _ hs hstep => imageLaw_kept.step hs hstep

end Sys2Proof.Machine
end

section
/-! A master's round on the line (02, R26; 03, R40, R45; log 7). Each instant sends what is under way and begins the next
slot; over a whole round the law of the slot map gives each driven mailbox one drive, so every slot is the one the part
would have built at the start. -/

namespace Sys2Proof.Machine

theorem voidSlot_eq : voidSlot = { head := 0, data := Vector.replicate 8 0, check := 0xA5 } := by decide

/-- The mailboxes as the start of slot n leaves them: at a DRIVE entry, the drive (02, R26). -/
def State.drivenAt (s : State) (n : Nat) : Vector Runtime 32 :=
  if (s.active.slot n).role = .drive then
    s.boxes.set (s.active.slot n).mailbox (s.box (s.active.slot n).mailbox).driven else s.boxes

/-- The part after the instant at which slot `o.next` begins. -/
def State.slotSent (o : OutRound) (s : State) : State := { s with
  rout := s.rout ++ [o.leaving]
  ring := { s.ring with outRound := some { o with next := o.next + 1, sending := some (s.masterSlot o.next) } }
  boxes := s.drivenAt o.next }

/-- An instant that has come begins the next slot, and time moves on from there. -/
theorem advanceTo_more {t : Nat} {o : OutRound} {s : State} (ho : s.ring.outRound = some o) (hs : o.slots ≤ 64)
    (hdue : 25 * o.start + 256 * (4 + 10 * o.next) ≤ 25 * t) (hmore : o.next < o.slots) :
    s.advanceTo t = (s.slotSent o).advanceTo t := by
  rw [advanceTo_instant t o s ho hs hdue, slotInstant_more o s hmore]
  rfl

/-- The instant after the last slot ends the round. -/
theorem advanceTo_last {t : Nat} {o : OutRound} {s : State} (ho : s.ring.outRound = some o) (hs : o.slots ≤ 64)
    (hdue : 25 * o.start + 256 * (4 + 10 * o.next) ≤ 25 * t) (hlast : ¬ o.next < o.slots) :
    s.advanceTo t = { s with now := t, rout := s.rout ++ [o.leaving], ring := { s.ring with outRound := none } } := by
  rw [advanceTo_instant t o s ho hs hdue, slotInstant_last o s hlast, advanceTo_none t _ rfl]

/-! ### The mailboxes at one slot -/

theorem slotSent_box_driven (o : OutRound) (s : State) (h : (s.active.slot o.next).role = .drive) :
    (s.slotSent o).box (s.active.slot o.next).mailbox = (s.box (s.active.slot o.next).mailbox).driven := by
  simp [State.slotSent, State.drivenAt, State.box, h]

theorem slotSent_box_other (o : OutRound) (s : State) {m : Fin 32}
    (h : (s.active.slot o.next).role = .drive → (s.active.slot o.next).mailbox ≠ m) : (s.slotSent o).box m = s.box m := by
  show (s.drivenAt o.next)[m] = s.boxes[m]
  unfold State.drivenAt
  split
  · rename_i hd
    exact setBox_box_other (Ne.symm (h hd)) _ s
  · rfl

/-- The slot sent at an entry depends on the entry's mailbox alone. -/
theorem masterSlot_congr {s t : State} {n : Nat} (ha : t.active = s.active)
    (hb : (s.active.slot n).role = .drive → t.box (s.active.slot n).mailbox = s.box (s.active.slot n).mailbox) :
    t.masterSlot n = s.masterSlot n := by
  unfold State.masterSlot
  rw [ha]
  cases hr : (s.active.slot n).role with
  | pass | listen => rfl
  | drive => simp only [State.drivenSlot, hb hr]

/-- No two entries of a lawful slot map drive one mailbox (03, R42). -/
theorem Image.lawful.drives_distinct {i : Image} (h : i.lawful) {n k : Nat} (hnk : n < k) (hk : k < 64)
    (hn : (i.slot n).role = .drive) (hkr : (i.slot k).role = .drive) : (i.slot n).mailbox ≠ (i.slot k).mailbox := by
  obtain ⟨-, -, distinct, -, -⟩ := h
  have := distinct ⟨n, by omega⟩ ⟨k, hk⟩ hnk
  simp only [← Image.slot_fin] at this
  exact this (by simp [hn]) (by simp [hkr])

/-! ### The rest of a round -/

/-- The slots of a round from `o.next` on have gone out, each built from the mailboxes of `s`. -/
structure RoundSent (o : OutRound) (s v : State) : Prop where
  ended : v.ring.outRound = none
  rout : v.rout = s.rout ++ [o.leaving] ++
    (List.range' o.next (o.slots - o.next)).map (fun n => .slot n (s.masterSlot n))
  driven : ∀ n, o.next ≤ n → n < o.slots → (s.active.slot n).role = .drive →
    v.box (s.active.slot n).mailbox = (s.box (s.active.slot n).mailbox).driven
  kept : ∀ m, (∀ n, o.next ≤ n → n < o.slots → s.active.slot n ≠ { role := .drive, mailbox := m }) → v.box m = s.box m

/-- One more slot before the rest of a round. -/
theorem RoundSent.cons {o : OutRound} {s v : State} (hl : s.active.lawful) (hs : o.slots ≤ 64) (hmore : o.next < o.slots)
    (h : RoundSent { o with next := o.next + 1, sending := some (s.masterSlot o.next) } (s.slotSent o) v) :
    RoundSent o s v := by
  obtain ⟨ended, rout, driven, kept⟩ := h
  dsimp only at rout driven kept
  have later {n : Nat} (h1 : o.next < n) (h2 : n < o.slots) (hd : (s.active.slot n).role = .drive) :
      (s.slotSent o).box (s.active.slot n).mailbox = s.box (s.active.slot n).mailbox :=
    slotSent_box_other o s fun hr => hl.drives_distinct h1 (by omega) hr hd
  have first_kept (hd : (s.active.slot o.next).role = .drive) :
      v.box (s.active.slot o.next).mailbox = (s.slotSent o).box (s.active.slot o.next).mailbox := by
    refine kept _ fun n h1 h2 e => ?_
    have e : s.active.slot n = { role := .drive, mailbox := (s.active.slot o.next).mailbox } := e
    exact hl.drives_distinct h1 (by omega) hd (by rw [e]) (by rw [e])
  refine ⟨ended, ?_, fun n h1 h2 hd => ?_, fun m hm => ?_⟩
  · have same : (List.range' (o.next + 1) (o.slots - (o.next + 1))).map
          (fun n => RingEmission.slot n ((s.slotSent o).masterSlot n)) =
        (List.range' (o.next + 1) (o.slots - (o.next + 1))).map (fun n => .slot n (s.masterSlot n)) := by
      refine List.map_congr_left fun n hn => ?_
      obtain ⟨h1, h2⟩ := List.mem_range'_1.mp hn
      rw [masterSlot_congr (s := s) (t := s.slotSent o) rfl (later h1 (by omega))]
    have count : o.slots - o.next = (o.slots - (o.next + 1)) + 1 := by omega
    rw [rout, same, count, List.range'_succ]
    simp [State.slotSent, OutRound.leaving]
  · rcases Nat.eq_or_lt_of_le h1 with rfl | h1
    · rw [first_kept hd, slotSent_box_driven o s hd]
    · rw [← later h1 h2 hd]
      exact driven n h1 h2 hd
  · rw [kept m fun n h1 h2 => hm n (by omega) h2]
    refine slotSent_box_other o s fun hd e => hm o.next (Nat.le_refl _) hmore ?_
    rw [← hd, ← e]

/-- Time past the end of a round sends all that is left of it. -/
theorem advanceTo_roundSent (t left : Nat) : ∀ (o : OutRound) (s : State), s.ring.outRound = some o →
    o.next + left = o.slots → o.slots ≤ 64 → s.active.lawful → 25 * o.start + 256 * (4 + 10 * o.slots) ≤ 25 * t →
    RoundSent o s (s.advanceTo t) := by
  induction left with
  | zero =>
    intro o s ho hn hs _ hend
    rw [advanceTo_last ho hs (by omega) (by omega)]
    refine ⟨rfl, ?_, fun n h1 h2 => by omega, fun m _ => rfl⟩
    simp [← hn]
  | succ left ih =>
    intro o s ho hn hs hl hend
    rw [advanceTo_more ho hs (by omega) (by omega)]
    exact (ih _ (s.slotSent o) rfl (by dsimp only; omega) hs hl hend).cons hl hs (by omega)

/-- Settles O60: the instants one by one, and the whole round by induction on the slots left. -/
theorem masterRoundGoesOut : Obligations.MasterRoundGoesOut := by
  refine ⟨advanceTo_none, fun t o s ho hs => ⟨advanceTo_early t o s ho, advanceTo_last ho hs, fun hdue hmore => ?_⟩,
    fun t o s ho hn hsend hs hl hend => ?_, fun t s => rfl⟩
  · obtain ⟨builds, void⟩ := masterSlot_builds s o.next
    exact ⟨s.masterSlot o.next, builds, fun hr => (void hr).trans voidSlot_eq, advanceTo_more ho hs hdue hmore⟩
  · obtain ⟨ended, rout, driven, kept⟩ := advanceTo_roundSent t o.slots o s ho (by omega) hs hl hend
    have entry (n : Fin 64) : s.active.slots[n] = s.active.slot n.val := (Image.slot_fin _ n).symm
    refine ⟨s.masterSlot, ended, ?_, fun n hlt hr => ?_, fun n _ hr => ?_, fun m hm => kept m fun n _ hlt => ?_⟩
    · rw [rout, hn, OutRound.leaving, hsend, Nat.sub_zero, List.range_eq_range']
    · rw [entry] at hr ⊢
      exact ⟨(masterSlot_builds s n.val).1 hr, driven n.val (by omega) hlt hr⟩
    · rw [entry] at hr
      exact ((masterSlot_builds s n.val).2 hr).trans voidSlot_eq
    · have := hm ⟨n, by omega⟩ hlt
      rwa [entry] at this

end Sys2Proof.Machine
end

section
/-! A slot on the inbound line: its first byte, which is the drive at a DRIVE entry, and its last, with which a LISTEN slot
is handed to its report mailbox (02, R26; 03, R38, R46, R48 to R54; 05, R77 to R91; log 8). -/

namespace Sys2Proof.Machine

/-- Time moving on leaves the accepted round as it was. -/
theorem found_inRound (t : Nat) (s : State) : (s.found t).ring.inRound = (s.ripe t).ring.inRound := by
  rw [found_ring]

/-! ### The first byte of a slot -/

theorem exec_incomingSlotStart {time : Nat} {s : State} (ht : s.inTime (16 * time))
    (hb : (s.found (16 * time)).slotMayBegin = true) :
    exec (.incomingSlotStart time) s = .next (s.found (16 * time)).slotBegins := by
  have hb' : (s.ripe (16 * time)).slotMayBegin = true := by
    rwa [State.slotMayBegin, found_inRound] at hb
  exact congrArg _ (atTime_of_occurs ht hb')

/-- A follower drives at the entry of the slot that begins (03, R50). -/
def State.drivesIn (u : State) (r : InRound) : Prop := r.use = .follow ∧ (u.active.slot r.arrived).role = .drive

theorem slotBegins_drives {u : State} {r : InRound} (hr : u.ring.inRound = some r) (hs : r.started = false)
    (hd : u.drivesIn r) : u.slotBegins = { u with
      ring := { u.ring with inRound := some { r with
        started := true, driven := some (u.drivenSlot (u.active.slot r.arrived).mailbox) } }
      boxes := u.boxes.set (u.active.slot r.arrived).mailbox (u.box (u.active.slot r.arrived).mailbox).driven } := by
  have hd' : r.use = .follow ∧ (u.active.slot r.arrived).role = .drive := hd
  simp only [State.slotBegins, hr, hs, hd', and_self, if_true, drive_eq]
  rfl

theorem slotBegins_other {u : State} {r : InRound} (hr : u.ring.inRound = some r) (hs : r.started = false)
    (hd : ¬ u.drivesIn r) : u.slotBegins = { u with
      ring := { u.ring with inRound := some { r with started := true, driven := none } } } := by
  have hd' : ¬ (r.use = .follow ∧ (u.active.slot r.arrived).role = .drive) := hd
  simp only [State.slotBegins, hr, hs, hd', if_false]
  rfl

theorem slotBegins_outside {u : State} (hr : u.ring.inRound = none) : u.slotBegins = u := by
  simp only [State.slotBegins, hr]

/-- Settles O26: the event finds the slot not begun, and the entry decides. -/
theorem slotStartDrives : Obligations.SlotStartDrives := by
  have begins {time : Nat} {r : InRound} {s : State} (ht : s.inTime (16 * time))
      (hr : (s.found (16 * time)).ring.inRound = some r) (hs : r.started = false) :
      exec (.incomingSlotStart time) s = .next (s.found (16 * time)).slotBegins :=
    exec_incomingSlotStart ht (by simp [State.slotMayBegin, hr, hs])
  refine ⟨fun time r s ht hr hs => ⟨fun hd => ⟨_, drivenSlot_builds _ _, ?_⟩, fun hd => ?_⟩, fun time s ht hr => ?_⟩
  · rw [begins ht hr hs, slotBegins_drives hr hs hd]
  · rw [begins ht hr hs, slotBegins_other hr hs hd]
  · rw [exec_incomingSlotStart ht (by simp [State.slotMayBegin, hr]), slotBegins_outside hr]

/-! ### The last byte of a slot -/

theorem exec_slotArrival {time : Nat} {b : SlotBytes} {s : State} (ht : s.inTime (16 * time))
    (he : (s.found (16 * time)).slotMayEnd = true) :
    exec (.slotArrival time b) s = .next ((s.found (16 * time)).slotEnds b) := by
  have he' : (s.ripe (16 * time)).slotMayEnd = true := by
    rwa [State.slotMayEnd, found_inRound] at he
  exact congrArg _ (atTime_of_occurs ht he')

/-- The part when a slot has passed, before the ring port reads it: the round has moved on, and the slot, or the one driven
in its place, has gone out as the use of the round says (03, R48 to R50, R53). -/
def State.slotPassed (r : InRound) (b : SlotBytes) (u : State) : State := { u with
  ring := { u.ring with
    inRound := if r.arrived + 1 < r.slots
      then some { r with arrived := r.arrived + 1, started := false, driven := none } else none }
  rout := match r.use with
    | .follow => u.rout ++ [.slot r.arrived (r.driven.getD b)]
    | .passThrough => u.rout ++ [.slot r.arrived b]
    | .returned => u.rout }

theorem slotEnds_eq {u : State} {r : InRound} (hr : u.ring.inRound = some r) (hs : r.started = true) (b : SlotBytes) :
    u.slotEnds b = (u.slotPassed r b).readSlot r b := by
  simp only [State.slotEnds, hr, hs, if_true, State.slotPassed, State.reemit, State.emitRing]
  cases r.use <;> rfl

theorem slotEnds_outside {u : State} (hr : u.ring.inRound = none) (b : SlotBytes) : u.slotEnds b = u := by
  simp only [State.slotEnds, hr]

/-- The ring port reads the LISTEN slots of a round it follows or gets back (03, R46, R51). -/
theorem readsSlot_iff (s : State) (r : InRound) :
    s.readsSlot r = true ↔ r.use ≠ .passThrough ∧ (s.active.slot r.arrived).role = .listen := by
  simp [State.readsSlot]

theorem readSlot_unread {s : State} {r : InRound} (h : s.readsSlot r = false) (b : SlotBytes) : s.readSlot r b = s := by
  simp [State.readSlot, h]

theorem readSlot_good {s : State} {r : InRound} {b : SlotBytes} (h : s.readsSlot r = true) (hb : GoodSlot b) :
    s.readSlot r b = s.slotArrives (s.active.slot r.arrived).mailbox b := by
  simp [State.readSlot, h, (slotGood_iff b).mpr hb]

theorem readSlot_bad {s : State} {r : InRound} {b : SlotBytes} (h : s.readsSlot r = true) (hb : ¬ GoodSlot b) :
    s.readSlot r b = s.badSlot := by
  simp [State.readSlot, h, Bool.eq_false_iff.mpr fun h' => hb ((slotGood_iff b).mp h')]

/-- A slot out of the reach of the ring port only passes. -/
theorem slotEnds_unread {u : State} {r : InRound} (hr : u.ring.inRound = some r) (hs : r.started = true)
    (h : r.use = .passThrough ∨ (u.active.slot r.arrived).role ≠ .listen) (b : SlotBytes) :
    u.slotEnds b = u.slotPassed r b := by
  have unread : ¬ ((u.slotPassed r b).readsSlot r = true) := by
    rw [readsSlot_iff]
    exact fun ⟨h1, h2⟩ => h.elim h1 fun h3 => h3 h2
  rw [slotEnds_eq hr hs, readSlot_unread (Bool.eq_false_iff.mpr unread)]

/-- How a LISTEN slot passes: a follower re-emits it, a master's own round goes no further (03, R46, R49). -/
theorem slotPassed_listened {u : State} {r : InRound} (hd : r.driven = none) (hu : r.use ≠ .passThrough) (b : SlotBytes) :
    u.slotPassed r b = { u with
      ring := { u.ring with
        inRound := if r.arrived + 1 < r.slots then some { r with arrived := r.arrived + 1, started := false } else none }
      rout := if r.use = .follow then u.rout ++ [.slot r.arrived b] else u.rout } := by
  obtain ⟨slots, arrived, started, driven, use⟩ := r
  subst hd
  cases use with
  | follow | returned => rfl
  | passThrough => exact absurd rfl hu

/-! ### The tests at the end of an arrival -/

/-- The trigger of the change tests, if they find one (05, R81, R85). -/
def State.triggeredBy (m : Fin 32) (previous : SlotClass) (s : State) : State :=
  if triggers (s.config m) (s.box m) previous = true then s.trigger m else s

/-- An arrival that triggers places an entry: the mailbox had none, and no older generation's is in flight (05, R85; 01,
R13). -/
def State.placesReport (m : Fin 32) (previous : SlotClass) (s : State) : Prop :=
  Triggers (s.config m) (s.box m) previous ∧ ((s.box m).state = .void ∨ (s.box m).state = .quiet) ∧
    s.hasInFlight (Owner.isReportOf m) = false

theorem triggeredBy_notices (m : Fin 32) (previous : SlotClass) (s : State) :
    (s.triggeredBy m previous).notices = s.notices := by
  unfold State.triggeredBy
  split
  · simp
  · rfl

theorem triggeredBy_active (m : Fin 32) (previous : SlotClass) (s : State) :
    (s.triggeredBy m previous).active = s.active := by
  unfold State.triggeredBy
  split
  · simp
  · rfl

theorem triggeredBy_tx_placing {m : Fin 32} {previous : SlotClass} {s : State} (h : s.placesReport m previous) :
    (s.triggeredBy m previous).tx = (s.placeReport m).tx := by
  obtain ⟨fires, waits, alone⟩ := h
  rw [State.triggeredBy, if_pos ((triggers_iff _ _ _).mpr fires), trigger_eq]
  exact if_pos ⟨waits, alone⟩

theorem triggeredBy_tx_other {m : Fin 32} {previous : SlotClass} {s : State} (h : ¬ s.placesReport m previous) :
    (s.triggeredBy m previous).tx = s.tx := by
  unfold State.triggeredBy
  split
  · rename_i fires
    rw [trigger_eq]
    exact if_neg fun ⟨waits, alone⟩ => h ⟨(triggers_iff _ _ _).mp fires, waits, alone⟩
  · rfl

/-- An entry into a degraded class ends the tests with attention (05, R91). -/
theorem testChange_degrading {m : Fin 32} {previous : SlotClass} {s : State} (h1 : previous.degraded = false)
    (h2 : (s.box m).classSeen.degraded = true) :
    s.testChange m previous = (s.triggeredBy m previous).markAttention m := by
  rw [testChange_eq]
  exact if_pos ⟨h1, h2⟩

/-- Without an entry into a degraded class under attention enable the trigger is all. -/
theorem testChange_unmarked {m : Fin 32} {previous : SlotClass} {s : State}
    (h : ¬ (previous.degraded = false ∧ (s.box m).classSeen.degraded = true ∧ (s.config m).attention = true)) :
    s.testChange m previous = s.triggeredBy m previous := by
  by_cases hd : previous.degraded = false ∧ (s.box m).classSeen.degraded = true
  · rw [testChange_degrading hd.1 hd.2, markAttention_eq, config_congr (triggeredBy_active m previous s), if_neg]
    exact fun ha => h ⟨hd.1, hd.2, ha⟩
  · rw [testChange_eq]
    exact if_neg hd

/-- An attention event under attention enable (10, R182). -/
theorem markAttention_latched {m : Fin 32} {s : State} (h : (s.config m).attention = true) :
    (s.notices.attention = 0 → Condition.attention.isIn (s.markAttention m).notices.latched = true) ∧
      (s.notices.attention ≠ 0 → (s.markAttention m).notices.latched = s.notices.latched) := by
  rw [markAttention_eq, if_pos h]
  constructor
  · intro h0
    rw [if_pos h0, latch_isIn_self]
  · intro h0
    rw [if_neg h0]

/-- The first placement of an event stands behind everything queued before the event (06, R98). -/
theorem placedBehind_of_stamps {o : Owner} {u v : State} (hq : v.tx.queued = u.tx.queued)
    (hs : ∀ x ∈ u.tx.queued, x.stamp < v.tx.epoch * 64) : u.placedBehind o (v.place o) := by
  have above : ∀ x ∈ u.tx.queued, x.stamp < v.tx.epoch * 64 + o.rank v.tx.placed :=
    fun x hx => Nat.lt_add_right _ (hs x hx)
  refine ⟨{ owner := o, stamp := v.tx.epoch * 64 + o.rank v.tx.placed, attempts := 0 }, rfl, rfl, ?_, above⟩
  rw [place_queued, hq]
  exact insertEntry_above fun x hx => Nat.le_of_lt (above x hx)

/-! ### A good slot at its report mailbox -/

/-- The mailbox with the slot's bytes, length and class (03, R38, R39; 05, R78). -/
def Runtime.given (slot : SlotBytes) (b : Runtime) : Runtime := { b with
  data := slot.data, dataLength := slotLength slot, classSeen := SlotClass.ofSlotState (slotStateCode slot) }

/-- The part when the slot is in the mailbox and the tests are still to come (05, R77, R78; 08, R140). -/
def State.handed (m : Fin 32) (slot : SlotBytes) (s : State) : State :=
  (s.setBox m ((s.box m).given slot)).touchHold m ((s.box m).data != slot.data)

theorem slotArrives_eq (m : Fin 32) (slot : SlotBytes) (s : State) :
    s.slotArrives m slot = (s.handed m slot).testChange m (s.box m).classSeen := rfl

theorem handed_boxes (m : Fin 32) (slot : SlotBytes) (s : State) :
    (s.handed m slot).boxes = (s.setBox m ((s.box m).given slot)).boxes := by
  simp [State.handed]

theorem handed_box (m : Fin 32) (slot : SlotBytes) (s : State) : (s.handed m slot).box m = (s.box m).given slot := by
  rw [box_congr (handed_boxes m slot s), setBox_box_self]

theorem handed_box_other {m j : Fin 32} (hj : j ≠ m) (slot : SlotBytes) (s : State) :
    (s.handed m slot).box j = s.box j := by
  rw [box_congr (handed_boxes m slot s), setBox_box_other hj]

@[simp] theorem handed_frame (m : Fin 32) (slot : SlotBytes) (s : State) :
    (s.handed m slot).active = s.active ∧ (s.handed m slot).tx = s.tx ∧ (s.handed m slot).bus = s.bus ∧
      (s.handed m slot).notices = s.notices ∧ (s.handed m slot).counters = s.counters := by
  simp [State.handed]

theorem handed_hasInFlight (m : Fin 32) (slot : SlotBytes) (s : State) (p : Owner → Bool) :
    (s.handed m slot).hasInFlight p = s.hasInFlight p := by
  simp [State.hasInFlight, State.inFlight]

theorem slotArrives_tested (m : Fin 32) (slot : SlotBytes) (s : State) :
    State.tested m ((s.box m).given slot) s (s.slotArrives m slot) := by
  have h := testChange_tested m s (s.handed m slot) (config_congr (by simp) m) (live_congr (by simp) _) (by simp)
    (inFlight_congr (by simp))
  rwa [handed_box] at h

theorem slotArrives_only (m : Fin 32) (slot : SlotBytes) (s : State) :
    OnlyMailbox m (s.handed m slot) (s.slotArrives m slot) :=
  testChange_only m _ _

theorem slotArrives_box_other {m j : Fin 32} (hj : j ≠ m) (slot : SlotBytes) (s : State) :
    (s.slotArrives m slot).box j = s.box j :=
  ((slotArrives_only m slot s).box j hj).trans (handed_box_other hj slot s)

theorem slotArrives_live_other {m : Fin 32} {k : Fin 111} (hk : k ≠ counterB m) (slot : SlotBytes) (s : State) :
    (s.slotArrives m slot).live k = s.live k :=
  ((slotArrives_only m slot s).live k hk).trans (live_congr (by simp) k)

theorem slotArrives_counters (m : Fin 32) (slot : SlotBytes) (s : State) :
    (s.slotArrives m slot).counters = { s.counters with live := (s.slotArrives m slot).counters.live } := by
  rw [(slotArrives_only m slot s).frame]
  simp

theorem slotArrives_replies (m : Fin 32) (slot : SlotBytes) (s : State) :
    (s.slotArrives m slot).tx.replies = s.tx.replies := by
  rw [(slotArrives_only m slot s).frame]
  simp

/-- A valid hold of the mailbox notes changed data (01, R5; 08, R140). -/
theorem slotArrives_hold (m : Fin 32) (slot : SlotBytes) (s : State) : (s.slotArrives m slot).engine =
    { s.engine with hold := { s.engine.hold with
      changed := s.engine.hold.changed ||
        (s.engine.hold.valid && decide (s.engine.hold.mailbox = m) && decide ((s.box m).data ≠ slot.data)) } } := by
  have order : ((s.box m).data != slot.data && s.engine.hold.valid && s.engine.hold.mailbox == m) =
      (s.engine.hold.valid && decide (s.engine.hold.mailbox = m) && decide ((s.box m).data ≠ slot.data)) := by
    rw [Bool.and_assoc, Bool.and_comm]
    simp [bne, beq_eq_decide]
  simp only [slotArrives_eq, testChange_frame, State.handed, touchHold_hold, setBox_engine, order]

/-- The mailbox's state is not the slot's to change. -/
theorem given_state (slot : SlotBytes) (b : Runtime) : (b.given slot).state = b.state := rfl

/-- What the arrival of a slot places, in the words of the part before it. -/
def State.slotPlaces (m : Fin 32) (slot : SlotBytes) (s : State) : Prop :=
  Triggers (s.config m) ((s.box m).given slot) (s.box m).classSeen ∧
    ((s.box m).state = .void ∨ (s.box m).state = .quiet) ∧ s.hasInFlight (Owner.isReportOf m) = false

theorem handed_placesReport (m : Fin 32) (slot : SlotBytes) (s : State) :
    (s.handed m slot).placesReport m (s.box m).classSeen ↔ s.slotPlaces m slot := by
  have hc : (s.handed m slot).config m = s.config m := config_congr (by simp) m
  rw [State.placesReport, State.slotPlaces, hc, handed_box, handed_hasInFlight, given_state]

theorem slotArrives_unmarked {m : Fin 32} {slot : SlotBytes} {s : State}
    (h : ¬ State.marksAttention m ((s.box m).given slot) s) :
    s.slotArrives m slot = (s.handed m slot).triggeredBy m (s.box m).classSeen := by
  rw [slotArrives_eq, testChange_unmarked]
  rw [handed_box, config_congr (handed_frame m slot s).1]
  exact h

theorem slotArrives_marking {m : Fin 32} {slot : SlotBytes} {s : State}
    (h : State.marksAttention m ((s.box m).given slot) s) :
    s.slotArrives m slot = ((s.handed m slot).triggeredBy m (s.box m).classSeen).markAttention m := by
  obtain ⟨before, after, -⟩ := h
  rw [slotArrives_eq, testChange_degrading before (by rw [handed_box]; exact after)]

theorem slotArrives_notices_unmarked {m : Fin 32} {slot : SlotBytes} {s : State}
    (h : ¬ State.marksAttention m ((s.box m).given slot) s) : (s.slotArrives m slot).notices = s.notices := by
  rw [slotArrives_unmarked h, triggeredBy_notices]
  simp

theorem slotArrives_tx_unplaced {m : Fin 32} {slot : SlotBytes} {s : State} (hp : ¬ s.slotPlaces m slot)
    (h : ¬ State.marksAttention m ((s.box m).given slot) s) : (s.slotArrives m slot).tx = s.tx := by
  rw [slotArrives_unmarked h, triggeredBy_tx_other (mt (handed_placesReport m slot s).mp hp)]
  simp

/-- The entry of a report mailbox that triggers is placed under its generation (06, R98). -/
theorem slotArrives_placedBehind {m : Fin 32} {slot : SlotBytes} {s : State} (hp : s.slotPlaces m slot)
    (h : ¬ State.marksAttention m ((s.box m).given slot) s) (hs : ∀ x ∈ s.tx.queued, x.stamp < s.tx.epoch * 64) :
    s.placedBehind (.report m (s.box m).generation) (s.slotArrives m slot) := by
  have htx := triggeredBy_tx_placing ((handed_placesReport m slot s).mpr hp)
  have hplaced : s.placedBehind (.report m ((s.handed m slot).box m).generation) ((s.handed m slot).placeReport m) :=
    placedBehind_of_stamps (by simp) (by simpa using hs)
  rw [handed_box] at hplaced
  rw [slotArrives_unmarked h]
  simp only [State.placedBehind, htx]
  exact hplaced

/-- Attention bit m, and the notice of a set that was empty (05, R91; 10, R182). -/
theorem slotArrives_notices_marked {m : Fin 32} {slot : SlotBytes} {s : State}
    (h : State.marksAttention m ((s.box m).given slot) s) :
    (s.slotArrives m slot).notices.attention = s.notices.attention ||| BitVec.twoPow 32 m.val ∧
      (s.notices.attention = 0 → Condition.attention.isIn (s.slotArrives m slot).notices.latched = true) ∧
      (s.notices.attention ≠ 0 → (s.slotArrives m slot).notices.latched = s.notices.latched) := by
  obtain ⟨-, -, enabled⟩ := id h
  have hn : ((s.handed m slot).triggeredBy m (s.box m).classSeen).notices = s.notices := by
    simp [triggeredBy_notices]
  have ha : (((s.handed m slot).triggeredBy m (s.box m).classSeen).config m).attention = true := by
    rw [config_congr (triggeredBy_active _ _ _), config_congr (handed_frame m slot s).1]
    exact enabled
  have hl := markAttention_latched ha
  rw [slotArrives_marking h, markAttention_attention m _ ha]
  rw [hn] at hl ⊢
  exact ⟨rfl, hl⟩

/-! ### A slot the ring port reads -/

theorem readSlot_counters (r : InRound) (b : SlotBytes) (s : State) :
    (s.readSlot r b).counters = { s.counters with live := (s.readSlot r b).counters.live } := by
  unfold State.readSlot
  split
  · split
    · exact slotArrives_counters _ b s
    · simp [State.badSlot, State.count]
  · rfl

/-- All that reading a slot can change. -/
theorem readSlot_only (r : InRound) (b : SlotBytes) (s : State) : s.readSlot r b = { s with
    boxes := (s.readSlot r b).boxes
    tx := (s.readSlot r b).tx
    engine := (s.readSlot r b).engine
    notices := (s.readSlot r b).notices
    counters := { s.counters with live := (s.readSlot r b).counters.live } } := by
  have hcounters := readSlot_counters r b s
  obtain ⟨hnow, hclosed, hheld, hactive, hstaging, hring, hbus, hboundary, hdue, hrout, hbtx, hpending⟩ :=
    readSlot_frame r b s
  exact State.ext hnow hclosed hheld rfl hactive hstaging hring rfl hbus rfl rfl hcounters hboundary hdue hrout hbtx
    hpending

/-- A bad slot is counted and latches SLOT_CHECK (03, R54). -/
theorem badSlot_counted (s : State) : s.badSlot.boxes = s.boxes ∧ s.badSlot.engine = s.engine ∧
    s.badSlot.counters = (s.count 98).counters ∧ Condition.slotCheck.isIn s.badSlot.notices.latched = true := by
  refine ⟨by simp, by simp, ?_, latch_isIn_self _ _⟩
  simp only [State.badSlot, latch_frame]
  rfl

/-- Settles O27: the slot passes, then the ring port reads it or does not. -/
theorem slotArrivals : Obligations.SlotArrivals := by
  have ends {time : Nat} {b : SlotBytes} {r : InRound} {s : State} (ht : s.inTime (16 * time))
      (hr : (s.found (16 * time)).ring.inRound = some r) (hs : r.started = true) :
      exec (.slotArrival time b) s = .next ((s.found (16 * time)).slotEnds b) :=
    exec_slotArrival ht (by simp [State.slotMayEnd, hr, hs])
  refine ⟨fun time b r s ht hr hs hd hu hl => ?_, fun time b r s ht hr hs h => ?_, fun time b s ht hr => ?_⟩
  · have hexec := ends (b := b) ht hr hs
    have hstamps : (s.ripe (16 * time)).queueLaw →
        ∀ x ∈ (s.found (16 * time)).tx.queued, x.stamp < (s.found (16 * time)).tx.epoch * 64 := found_stamps
    generalize s.found (16 * time) = u at hr hl hexec hstamps ⊢
    have hreads : (u.slotPassed r b).readsSlot r = true := (readsSlot_iff _ _).mpr ⟨hu, hl⟩
    have honly := readSlot_only r b (u.slotPassed r b)
    refine ⟨(u.slotPassed r b).readSlot r b, by rw [hexec, slotEnds_eq hr hs], ?_, fun hb => ?_, fun hb => ?_⟩
    · generalize (u.slotPassed r b).readSlot r b = t at honly ⊢
      rw [slotPassed_listened hd hu] at honly
      exact honly
    · rw [readSlot_good hreads hb]
      refine ⟨slotArrives_tested _ b (u.slotPassed r b), ?_, ?_, ?_, ?_, ?_, ?_, ?_, ?_⟩
      · exact fun j hj => slotArrives_box_other hj b (u.slotPassed r b)
      · exact fun k hk => slotArrives_live_other hk b (u.slotPassed r b)
      · exact slotArrives_hold _ b (u.slotPassed r b)
      · exact slotArrives_replies _ b (u.slotPassed r b)
      · exact fun hq hp hm => slotArrives_placedBehind (s := u.slotPassed r b) hp hm (hstamps hq)
      · exact fun hp hm => slotArrives_tx_unplaced (s := u.slotPassed r b) hp hm
      · exact slotArrives_notices_unmarked (s := u.slotPassed r b)
      · exact slotArrives_notices_marked (s := u.slotPassed r b)
    · rw [readSlot_bad hreads hb]
      exact badSlot_counted (u.slotPassed r b)
  · rw [ends ht hr hs, slotEnds_unread hr hs h]
    rfl
  · rw [exec_slotArrival ht (by simp [State.slotMayEnd, hr]), slotEnds_outside hr]

end Sys2Proof.Machine
end

section
/-! What a miss and the loss of the lock do to the ring port (04, R63, R64, R68). -/

namespace Sys2Proof.Machine

/-- The part when a miss has moved E, X and the miss count, before a third in a row loses the lock (04, R63). -/
def State.missed (advance : Bool) (x : Byte) (s : State) : State := { s with
  ring := { s.ring with
    expected := if advance then (s.ring.expected.bind fun e => s.ring.period.map fun p => e + p) else s.ring.expected
    expectedNumber := x
    misses := s.ring.misses + 1 } }

theorem missEffect_short {s : State} (h : s.ring.misses < 2) (advance : Bool) (x : Byte) :
    s.missEffect advance x = s.missed advance x :=
  if_neg (Nat.not_le.mpr (Nat.succ_lt_succ h))

theorem missEffect_third {s : State} (h : 2 ≤ s.ring.misses) (advance : Bool) (x : Byte) :
    s.missEffect advance x = (s.missed advance x).loseLock :=
  if_pos (Nat.succ_le_succ h)

/-- The part in HUNT again after a loss, a follower's local round timer started, before the loss is counted and told
(04, R64, R68). -/
def State.huntsAgain (s : State) : State := { s with
  ring := { s.ring with
    lock := .hunt, reference := none, period := none, expected := none, expectedNumber := 0, misses := 0
    timer := match s.role with
      | .follower => some { period := s.active.profile.roundPeriod, next := s.now + 16 * s.active.profile.roundPeriod }
      | .master => s.ring.timer } }

theorem loseLock_eq (s : State) :
    s.loseLock = ((s.huntsAgain.count Counter.lockLosses).latch .ringLost).giveClassLost := by
  have h : (match s.toHunt.role with
      | .follower => s.toHunt.startTimer
      | .master => s.toHunt) = s.huntsAgain := by
    have hr : s.toHunt.role = s.role := rfl
    rw [hr, State.huntsAgain]
    cases s.role <;> rfl
  rw [← h]
  rfl

theorem loseLock_ring (s : State) : s.loseLock.ring = s.huntsAgain.ring := by
  simp [loseLock_eq]

end Sys2Proof.Machine
end

section
/-! The round timer through every step (04, R56, R57, R59, R76). An operation keeps the law where NRESET, the role, the lock,
the miss count and the emitted numbers stay and the timer is not started or stopped; the exceptions are the resets, the
marks and window closes, the swap, and the round a master begins. -/

namespace Sys2Proof.Machine

/-- Nothing the law of the round timer speaks of changes. -/
structure SameTiming (s t : State) : Prop where
  held : t.held = s.held
  role : t.role = s.role
  lock : t.ring.lock = s.ring.lock
  timer : t.ring.timer = none ↔ s.ring.timer = none
  misses : t.ring.misses = s.ring.misses
  emitted : t.ring.emitted = s.ring.emitted

theorem SameTiming.ringLaw {s t : State} (h : SameTiming s t) (hs : s.ringLaw) : t.ringLaw := by
  simp only [State.ringLaw, h.held, h.role, h.lock, h.timer, h.misses, h.emitted]
  exact hs

/-- An operation that leaves the ring port alone. -/
theorem SameTiming.of_ring {s t : State} (hh : t.held = s.held) (ha : t.active = s.active) (hr : t.ring = s.ring) :
    SameTiming s t :=
  ⟨hh, by rw [State.role, ha, State.role], by rw [hr], by rw [hr], by rw [hr], by rw [hr]⟩

/-- An operation that leaves all of the ring port alone but the rounds on its lines. -/
theorem SameTiming.of_rounds {s t : State} (hh : t.held = s.held) (ha : t.active = s.active)
    (hr : t.ring = { s.ring with inRound := t.ring.inRound, outRound := t.ring.outRound }) : SameTiming s t :=
  ⟨hh, by rw [State.role, ha, State.role], by rw [hr], by rw [hr], by rw [hr], by rw [hr]⟩

/-- Out of LOCKED the timer has to run. -/
theorem ringLaw_of_unlocked {s : State} (ht : s.ring.timer ≠ none) (hl : s.ring.lock ≠ .locked) (hm : s.ring.misses ≤ 2)
    (he : s.ring.emitted.length ≤ 4) : s.ringLaw :=
  ⟨fun _ => ⟨fun h => absurd h ht, fun h => absurd h.2 hl⟩, hm, he⟩

/-- Under reset nothing is timed. -/
theorem ringLaw_of_held {s : State} (hh : s.held = true) (hm : s.ring.misses ≤ 2) (he : s.ring.emitted.length ≤ 4) :
    s.ringLaw :=
  ⟨fun h => by simp [hh] at h, hm, he⟩

/-! ### Resets -/

theorem performRestart_ringLaw (s : State) : s.performRestart.ringLaw :=
  ringLaw_of_unlocked (fun h => nomatch h) (fun h => nomatch h) (Nat.zero_le 2) (Nat.zero_le 4)

theorem releaseReset_ringLaw (straps : Straps) (s : State) : (s.releaseReset straps).ringLaw :=
  ringLaw_of_unlocked (fun h => nomatch h) (fun h => nomatch h) (Nat.zero_le 2) (Nat.zero_le 4)

theorem applyPower_ringLaw (straps : Straps) (busy asserted : Bool) (s : State) :
    (s.applyPower straps busy asserted).ringLaw := by
  cases asserted with
  | true => exact ringLaw_of_held rfl (Nat.zero_le 2) (Nat.zero_le 4)
  | false => exact releaseReset_ringLaw straps _

theorem assertReset_ring (s : State) :
    s.assertReset.ring = { s.ring with timer := none, inRound := none, outRound := none } ∧ s.assertReset.held = true := by
  unfold State.assertReset
  rw [cutInbound_cutOutbound]
  dsimp only
  split <;> exact ⟨rfl, rfl⟩

theorem assertReset_ringLaw {s : State} (hs : s.ringLaw) : s.assertReset.ringLaw := by
  obtain ⟨-, misses, emitted⟩ := hs
  obtain ⟨ring, held⟩ := assertReset_ring s
  refine ringLaw_of_held held ?_ ?_
  · rwa [ring]
  · rwa [ring]

/-! ### The works and the steps of a boundary -/

theorem rearm_sameTiming (s : State) : SameTiming s s.rearm := by
  rw [rearm_eq]
  refine ⟨rfl, rfl, rfl, ?_, rfl, rfl⟩
  dsimp only
  split <;> simp_all

/-- Of the numbers a master has emitted the last four are kept (04, R59). -/
theorem emitRound_ringLaw {s : State} (hs : s.ringLaw) : s.emitRound.ringLaw := by
  obtain ⟨timer, misses, -⟩ := hs
  refine ⟨timer, misses, ?_⟩
  simp only [State.emitRound, Config.emittedRoom, List.length_drop]
  omega

theorem closeBoundary_ringLaw {s : State} (cause : BoundaryCause) (hs : s.ringLaw) : (s.closeBoundary cause).ringLaw := by
  have rearmed : s.rearm.ringLaw := (rearm_sameTiming s).ringLaw hs
  unfold State.closeBoundary
  cases cause with
  | acceptedMark => exact hs
  | localTimer => exact rearmed
  | masterTimer =>
    dsimp only
    split
    · exact emitRound_ringLaw rearmed
    · exact rearmed

theorem work_sameTiming (w : BoundaryWork) (s : State) : SameTiming s (s.work w).1 :=
  SameTiming.of_ring (by simp) (by simp) (by simp)

/-- The lock of the old role ends in HUNT (04, R73, R74). -/
theorem endLock_ring (s : State) : s.endLock.ring = s.toHunt.ring := by
  unfold State.endLock
  split
  · simp
  · rfl
  · rfl

/-- A new role's timer runs (04, R73, R74). -/
theorem startTimer_endLock_ringLaw {s : State} (he : s.ring.emitted.length ≤ 4) : s.endLock.startTimer.ringLaw := by
  have ring : s.endLock.startTimer.ring = { s.toHunt.ring with timer := s.endLock.startTimer.ring.timer } := by
    rw [← endLock_ring]
    rfl
  refine ringLaw_of_unlocked (fun h => nomatch h) ?_ ?_ ?_ <;> rw [ring]
  · exact fun h => nomatch h
  · exact Nat.zero_le 2
  · exact he

/-- A swap that keeps the role keeps the timer as it is; one that changes it starts the timer, in HUNT (04, R72 to R74). -/
theorem changeRole_ringLaw {s x : State} {new : RingRole} (hs : s.ringLaw) (hh : x.held = s.held) (hr : x.ring = s.ring)
    (hn : x.role = new) : (x.changeRole s.role new).ringLaw := by
  unfold State.changeRole
  cases ho : s.role <;> cases new <;> dsimp only
  case follower.follower => exact SameTiming.ringLaw ⟨hh, by rw [hn, ho], by rw [hr], by rw [hr], by rw [hr], by rw [hr]⟩ hs
  case master.master => exact SameTiming.ringLaw ⟨hh, hn.trans ho.symm, by rw [hr], by rw [hr], by rw [hr], by rw [hr]⟩ hs
  case follower.master => exact startTimer_endLock_ringLaw (Nat.zero_le 4)
  case master.follower => exact startTimer_endLock_ringLaw (Nat.zero_le 4)

theorem swapPending_ringLaw {s : State} (n : Byte) (hs : s.ringLaw) : (s.swapPending n).ringLaw := by
  unfold State.swapPending
  split
  · exact changeRole_ringLaw hs (by simp) (by simp) (by simp [State.role])
  · exact hs

theorem performDue_ringLaw {s : State} (d : DueStep) (n : Byte) (hs : s.ringLaw) : (s.performDue d n).ringLaw := by
  cases d with
  | swap => exact swapPending_ringLaw n hs
  | sessionExpiry => exact (SameTiming.of_ring (t := s.expireSession) (by simp) (by simp) (by simp)).ringLaw hs
  | snapshotExpiry => exact (SameTiming.of_ring (t := s.takeSnapshot) (by simp) (by simp) (by simp)).ringLaw hs
  | repeatExpiry => exact (SameTiming.of_ring (t := s.expireRepeat) (by simp) (by simp) (by simp)).ringLaw hs

theorem ringLaw_keptByBoundary : KeptByBoundary State.ringLaw where
  current _ _ hs := hs
  close cause _ hs := closeBoundary_ringLaw cause hs
  work w s hs := (work_sameTiming w s).ringLaw hs
  wait w _ s hs _ := (work_sameTiming w s).ringLaw hs
  within w d n s hs _ := performDue_ringLaw d n ((work_sameTiming w s).ringLaw hs)
  due b _ hs _ := performDue_ringLaw b.due b.number hs

/-! ### Marks and window closes -/

theorem cutInbound_ring (s : State) : s.cutInbound.ring = { s.ring with inRound := none } := by
  unfold State.cutInbound
  split
  · rename_i h
    rw [← h]
  · dsimp only
    split <;> rfl

theorem truncate_sameTiming (s : State) : SameTiming s s.truncate := by
  refine SameTiming.of_rounds (by simp) (by simp) ?_
  unfold State.truncate
  split
  · rfl
  · dsimp only
    split <;> simp [cutInbound_ring]

/-- A master's timer goes on at a loss of its lock, and a follower's starts (04, R68). -/
theorem loseLock_ringLaw {s : State}
    (ht : s.ring.timer = none ↔ (s.role = .follower ∧ s.ring.lock = .locked)) (he : s.ring.emitted.length ≤ 4) :
    s.loseLock.ringLaw := by
  refine ringLaw_of_unlocked ?_ ?_ ?_ ?_ <;> rw [loseLock_ring]
  · simp only [State.huntsAgain]
    split
    · exact fun h => nomatch h
    · rename_i hr
      rw [ne_eq, ht, hr]
      exact fun h => nomatch h.1
  · exact fun h => nomatch h
  · exact Nat.zero_le 2
  · exact he

/-- A third miss ends the run of misses with the lock (04, R64). -/
theorem missEffect_ringLaw {s : State} (advance : Bool) (x : Byte) (hh : s.held = false) (hs : s.ringLaw) :
    (s.missEffect advance x).ringLaw := by
  obtain ⟨timer, misses, emitted⟩ := hs
  by_cases h : s.ring.misses < 2
  · rw [missEffect_short h]
    exact ⟨timer, h, emitted⟩
  · rw [missEffect_third (Nat.not_lt.mp h)]
    exact loseLock_ringLaw (s := s.missed advance x) (timer hh) emitted

theorem miss_ringLaw {s : State} (advance : Bool) (x : Byte) (hh : s.held = false) (hs : s.ringLaw) :
    (s.miss advance x).ringLaw :=
  missEffect_ringLaw (s := s.count Counter.markMisses) advance x hh hs

theorem foreignMark_ringLaw {s : State} (time : Nat) (n : Byte) (hh : s.held = false) (hs : s.ringLaw) :
    (s.foreignMark time n).ringLaw := by
  have told : ((s.latch .ringForeign).count Counter.markMisses).ringLaw :=
    (SameTiming.of_ring (by simp) (by simp) (by simp)).ringLaw hs
  unfold State.foreignMark
  dsimp only
  split
  · exact missEffect_ringLaw _ _ (by simpa using hh) told
  · exact told
  · exact told

theorem badMark_ringLaw {s : State} (time : Nat) (hh : s.held = false) (hs : s.ringLaw) : (s.badMark time).ringLaw := by
  unfold State.badMark
  split
  · split <;> exact miss_ringLaw _ _ hh hs
  · exact hs
  · exact hs

/-- Out of LOCKED a mark that becomes the reference leaves the timer running (04, R60). -/
theorem takeReference_ringLaw {s : State} (time : Nat) (n : Byte) (hh : s.held = false) (hl : s.ring.lock ≠ .locked)
    (hs : s.ringLaw) : (s.takeReference time n).ringLaw := by
  obtain ⟨timer, misses, emitted⟩ := hs
  exact ringLaw_of_unlocked (fun h => hl ((timer hh).mp h).2) (fun h => nomatch h) misses emitted

/-- The confirming mark stops a follower's timer, and a master's goes on (04, R61, R66). -/
theorem enterLocked_ringLaw {s : State} (period : Nat) (hh : s.held = false) (hl : s.ring.lock ≠ .locked)
    (hs : s.ringLaw) : (s.enterLocked period).ringLaw := by
  obtain ⟨timer, misses, emitted⟩ := hs
  have runs : s.ring.timer ≠ none := fun h => hl ((timer hh).mp h).2
  unfold State.enterLocked
  dsimp only
  split
  · rename_i hr
    refine (SameTiming.of_ring (by simp) (by simp) (latch_frame _ _).2.2.2.2.2.2.1).ringLaw ?_
    exact ⟨fun _ => ⟨fun _ => ⟨hr, rfl⟩, fun _ => rfl⟩, misses, emitted⟩
  · rename_i hr
    refine (SameTiming.of_ring (by simp) (by simp) (latch_frame _ _).2.2.2.2.2.2.1).ringLaw ?_
    exact ⟨fun _ => ⟨fun h => absurd h runs, fun h => nomatch hr.symm.trans h.1⟩, misses, emitted⟩

theorem acceptMark_ringLaw {s : State} (time : Nat) (m : RoundMark) (order : BoundaryOrder) (hs : s.ringLaw) :
    (s.acceptMark time m order).ringLaw := by
  obtain ⟨timer, -, emitted⟩ := hs
  unfold State.acceptMark
  dsimp only
  split
  · exact ringLaw_keptByBoundary.raiseBoundary _ _ _ _ ⟨timer, Nat.zero_le 2, emitted⟩
  · exact ⟨timer, Nat.zero_le 2, emitted⟩

theorem judgeMark_ringLaw {s : State} (time : Nat) (m : RoundMark) (order : BoundaryOrder) (hh : s.held = false)
    (hs : s.ringLaw) : (s.judgeMark time m order).ringLaw := by
  unfold State.judgeMark
  cases hl : s.ring.lock with
  | hunt => exact takeReference_ringLaw _ _ hh (by simp [hl]) hs
  | confirm =>
    have referred := takeReference_ringLaw time m.number hh (by simp [hl]) hs
    dsimp only
    split
    · split
      · exact acceptMark_ringLaw _ _ _ (enterLocked_ringLaw _ hh (by simp [hl]) hs)
      · exact referred
    · exact referred
  | locked =>
    dsimp only
    split
    · split
      · exact acceptMark_ringLaw _ _ _ hs
      · exact miss_ringLaw _ _ hh hs
    · exact miss_ringLaw _ _ hh hs

theorem markArrives_ringLaw {s : State} (time : Nat) (m : RoundMark) (order : BoundaryOrder) (hs : s.ringLaw) :
    (s.markArrives time m order).ringLaw := by
  have truncated : s.truncate.ringLaw := (truncate_sameTiming s).ringLaw hs
  unfold State.markArrives
  split
  · exact hs
  · rename_i hh
    have hh : s.truncate.held = false := by simpa using hh
    have judged := judgeMark_ringLaw time m order hh truncated
    dsimp only
    split
    · split
      · split
        · exact judged
        · exact foreignMark_ringLaw _ _ hh truncated
      · exact judged
    · exact badMark_ringLaw _ hh truncated

theorem windowCloses_ringLaw {s : State} (hh : s.held = false) (hs : s.ringLaw) : s.windowCloses.ringLaw :=
  miss_ringLaw _ _ (by simpa using hh) ((truncate_sameTiming _).ringLaw hs)

/-! ### Slots and expiries -/

theorem slotBegins_sameTiming (s : State) : SameTiming s s.slotBegins := by
  refine SameTiming.of_rounds (by simp) (by simp) ?_
  unfold State.slotBegins
  split
  · rfl
  · split
    · rfl
    · dsimp only
      split <;> simp

theorem slotEnds_sameTiming (b : SlotBytes) (s : State) : SameTiming s (s.slotEnds b) := by
  refine SameTiming.of_rounds (by simp) (by simp) ?_
  unfold State.slotEnds
  split
  · rfl
  · split
    · unfold State.reemit
      dsimp only
      split <;> simp
    · rfl

theorem dropThrough_sameTiming (s : State) : SameTiming s s.dropThrough := by
  refine SameTiming.of_rounds (by simp) (by simp) ?_
  unfold State.dropThrough
  split
  · split
    · simp [cutInbound_ring]
    · rfl
  · rfl

/-! ### Every step -/

/-- An event begins with the slots that have gone out meanwhile (03, R45). -/
theorem advanceTo_sameTiming (t : Nat) (s : State) : SameTiming s (s.advanceTo t).newEvent := by
  have ring : (s.advanceTo t).newEvent.ring = { s.ring with outRound := (s.advanceTo t).newEvent.ring.outRound } :=
    emitSlots_ring t 65 s
  refine SameTiming.of_rounds (by simp) (by simp) ?_
  rw [ring]

theorem act_sameTiming (r : Request) (rest : List Request) (s : State) :
    SameTiming s (r.row.act r (s.dequeue rest)) := by
  obtain ⟨-, held, -, active, ring, -⟩ := act_plain r.row r (s.dequeue rest)
  exact SameTiming.of_ring held active ring

theorem ringLaw_kept : Kept State.ringLaw where
  toKeptByBoundary := ringLaw_keptByBoundary
  pop _ _ hs := hs
  restart s _ := performRestart_ringLaw s
  begin t s hs := (advanceTo_sameTiming t s).ringLaw hs
  select _ hs _ := (SameTiming.of_ring (by simp) (by simp) (by simp)).ringLaw hs
  take r rest s hs _ _ _ := (act_sameTiming r rest s).ringLaw hs
  power straps busy asserted _ _ _ := applyPower_ringLaw straps busy asserted _
  assertReset _ hs := assertReset_ringLaw hs
  releaseReset straps s _ := releaseReset_ringLaw straps s
  frameBegins _ hs _ := (SameTiming.of_ring (by simp) (by simp) (by simp)).ringLaw hs
  frameEnds _ _ hs _ := (SameTiming.of_ring (by simp) (by simp) (by simp)).ringLaw hs
  lose _ hs _ := (SameTiming.of_ring (by simp) (by simp) (by simp)).ringLaw hs
  fail _ hs _ := (SameTiming.of_ring (by simp) (by simp) (by simp)).ringLaw hs
  complete _ hs _ := (SameTiming.of_ring (by simp) (by simp) (by simp)).ringLaw hs
  finished _ _ hs _ := hs
  mark time m order _ hs := markArrives_ringLaw time m order hs
  window _ hs hh _ := windowCloses_ringLaw hh hs
  slotBegins s hs := (slotBegins_sameTiming s).ringLaw hs
  slotEnds b s hs := (slotEnds_sameTiming b s).ringLaw hs
  masterExpiry order s hs _ :=
    ringLaw_keptByBoundary.raiseBoundary _ _ order _ ((dropThrough_sameTiming s).ringLaw hs)
  localExpiry order _ hs _ := ringLaw_keptByBoundary.raiseBoundary _ _ order _ hs

/-- Settles O57: every operation a step is made of keeps the law of the round timer. -/
theorem stepKeepsTheRoundTimerRunning : Obligations.StepKeepsTheRoundTimerRunning :=
  fun _ _ hs hstep => ringLaw_kept.step hs hstep

end Sys2Proof.Machine
end

section
/-! How a mark comes to be judged, and what its acceptance does (04, R60 to R66; 03, R37, R46, R48). -/

namespace Sys2Proof.Machine

/-! ### A mark in time -/

theorem exec_roundMarkArrival {time : Nat} {s : State} (ht : s.markInTime time) (m : RoundMark) (order : BoundaryOrder) :
    exec (.roundMarkArrival time m order) s = .next ((s.found (16 * time)).markArrives time m order) := by
  obtain ⟨inTime, unclosed⟩ := ht
  have ho : (s.ripe (16 * time)).markMayArrive time = true := decide_eq_true unclosed
  exact congrArg _ (atTime_of_occurs inTime ho)

theorem roundCut_held (x : State) : x.roundCut.held = x.held := by
  simp [← truncate_eq]

/-- Out of reset a mark cuts the round it finds, and then is judged, foreign or bad (04, R62, R65). -/
theorem markArrives_eq {x : State} (hh : x.roundCut.held = false) (time : Nat) (m : RoundMark) (order : BoundaryOrder) :
    x.markArrives time m order = if markGood m then
        match x.roundCut.role with
        | .master => if x.roundCut.ring.emitted.contains m.number then x.roundCut.judgeMark time m order
          else x.roundCut.foreignMark time m.number
        | .follower => x.roundCut.judgeMark time m order
      else x.roundCut.badMark time := by
  rw [roundCut_held] at hh
  rw [← truncate_eq]
  exact if_neg (by simp [hh])

/-- A good mark that the lock machine judges (04, R66). -/
theorem exec_mark_judged {time : Nat} {m : RoundMark} {s : State} (ht : s.markInTime time)
    (hh : (s.found (16 * time)).roundCut.held = false) (hg : GoodMark m)
    (hj : State.judges (s.found (16 * time)).roundCut m) (order : BoundaryOrder) :
    exec (.roundMarkArrival time m order) s = .next ((s.found (16 * time)).roundCut.judgeMark time m order) := by
  rw [exec_roundMarkArrival ht, markArrives_eq hh, if_pos ((markGood_iff m).mpr hg)]
  rcases hj with hr | ⟨hr, hm⟩
  · simp only [hr]
  · have hc : (s.found (16 * time)).roundCut.ring.emitted.contains m.number = true := List.contains_iff_mem.mpr hm
    simp only [hr, hc, if_true]

/-- A good mark that the master did not emit (04, R67). -/
theorem exec_mark_foreign {time : Nat} {m : RoundMark} {s : State} (ht : s.markInTime time)
    (hh : (s.found (16 * time)).roundCut.held = false) (hg : GoodMark m)
    (hr : (s.found (16 * time)).roundCut.role = .master) (hm : m.number ∉ (s.found (16 * time)).roundCut.ring.emitted)
    (order : BoundaryOrder) :
    exec (.roundMarkArrival time m order) s = .next ((s.found (16 * time)).roundCut.foreignMark time m.number) := by
  have hc : ¬ (s.found (16 * time)).roundCut.ring.emitted.contains m.number = true := mt List.contains_iff_mem.mp hm
  rw [exec_roundMarkArrival ht, markArrives_eq hh, if_pos ((markGood_iff m).mpr hg)]
  simp only [hr, hc]
  rfl

theorem exec_mark_bad {time : Nat} {m : RoundMark} {s : State} (ht : s.markInTime time)
    (hh : (s.found (16 * time)).roundCut.held = false) (hg : ¬ GoodMark m) (order : BoundaryOrder) :
    exec (.roundMarkArrival time m order) s = .next ((s.found (16 * time)).roundCut.badMark time) := by
  rw [exec_roundMarkArrival ht, markArrives_eq hh, if_neg (mt (markGood_iff m).mp hg)]

/-! ### The judgement by the lock state -/

theorem windowOpen_iff {s : State} {e p : Nat} (he : s.ring.expected = some e) (hp : s.ring.period = some p) (time : Nat) :
    s.windowOpen time = true ↔ 16 * e ≤ 16 * time + p ∧ 16 * time ≤ 16 * e + p := by
  simp [State.windowOpen, he, hp]

theorem judgeMark_hunt {s : State} (hl : s.ring.lock = .hunt) (time : Nat) (m : RoundMark) (order : BoundaryOrder) :
    s.judgeMark time m order = s.takeReference time m.number := by
  simp only [State.judgeMark, hl]

theorem confirms_iff (r : Reference) (time : Nat) (n : Byte) :
    confirms r time n = true ↔ n = r.number + 1 ∧ r.time < time ∧ time - r.time ≤ 65535 := by
  simp [confirms, Config.longestInterval, and_assoc]

theorem judgeMark_confirms {s : State} {r : Reference} {time : Nat} {m : RoundMark} (hl : s.ring.lock = .confirm)
    (hr : s.ring.reference = some r) (hc : m.number = r.number + 1 ∧ r.time < time ∧ time - r.time ≤ 65535)
    (order : BoundaryOrder) :
    s.judgeMark time m order = (s.enterLocked (time - r.time)).acceptMark time m order := by
  simp only [State.judgeMark, hl, hr, (confirms_iff r time m.number).mpr hc, if_true]

theorem judgeMark_replaces {s : State} {r : Reference} {time : Nat} {m : RoundMark} (hl : s.ring.lock = .confirm)
    (hr : s.ring.reference = some r) (hc : ¬ (m.number = r.number + 1 ∧ r.time < time ∧ time - r.time ≤ 65535))
    (order : BoundaryOrder) :
    s.judgeMark time m order = s.takeReference time m.number := by
  simp only [State.judgeMark, hl, hr, if_neg (mt (confirms_iff r time m.number).mp hc)]

section Locked

variable {s : State} {e p time : Nat} {m : RoundMark} (hl : s.ring.lock = .locked) (he : s.ring.expected = some e)
  (hp : s.ring.period = some p)
include hl he hp

theorem judgeMark_accepts (hi : 16 * e ≤ 16 * time + p ∧ 16 * time ≤ 16 * e + p)
    (hn : m.number = s.ring.expectedNumber) (order : BoundaryOrder) :
    s.judgeMark time m order = s.acceptMark time m order := by
  simp only [State.judgeMark, hl, (windowOpen_iff he hp time).mpr hi, hn, if_true]

theorem judgeMark_misses_inside (hi : 16 * e ≤ 16 * time + p ∧ 16 * time ≤ 16 * e + p)
    (hn : m.number ≠ s.ring.expectedNumber) (order : BoundaryOrder) :
    s.judgeMark time m order = s.miss true (m.number + 1) := by
  simp only [State.judgeMark, hl, (windowOpen_iff he hp time).mpr hi, hn, if_true, if_false]

theorem judgeMark_misses_outside (hi : ¬ (16 * e ≤ 16 * time + p ∧ 16 * time ≤ 16 * e + p)) (order : BoundaryOrder) :
    s.judgeMark time m order = s.miss false (m.number + 1) := by
  simp only [State.judgeMark, hl, if_neg (mt (windowOpen_iff he hp time).mp hi)]

theorem badMark_inside (hi : 16 * e ≤ 16 * time + p ∧ 16 * time ≤ 16 * e + p) :
    s.badMark time = s.miss true (s.ring.expectedNumber + 1) := by
  simp only [State.badMark, hl, (windowOpen_iff he hp time).mpr hi, if_true]

theorem badMark_outside (hi : ¬ (16 * e ≤ 16 * time + p ∧ 16 * time ≤ 16 * e + p)) :
    s.badMark time = s.miss false s.ring.expectedNumber := by
  simp only [State.badMark, hl, if_neg (mt (windowOpen_iff he hp time).mp hi)]

end Locked

/-- Out of LOCKED a bad mark changes nothing (04, R60, R61). -/
theorem badMark_unlocked {s : State} (hl : s.ring.lock ≠ .locked) (time : Nat) : s.badMark time = s := by
  unfold State.badMark
  split
  · exact absurd (by assumption) hl
  · rfl
  · rfl

/-! ### Acceptance -/

/-- The part a follower takes the works of an accepted mark's boundary on (04, R62). -/
def State.accepted (time p : Nat) (m : RoundMark) (s : State) : State := { s with
  ring := { s.ring.accepts time p m .follow with current := m.number }
  rout := s.rout ++ [.mark m]
  counters := (s.count 96).counters }

section Accepts

variable {s : State} {time p : Nat} {m : RoundMark} (hg : GoodMark m) (hl : s.ring.lock = .locked)
  (hp : s.ring.period = some p)
include hg hl hp

/-- What the acceptance sets in the lock, and the round it opens. -/
theorem openRound_accepts (use : RoundUse) :
    { s.ring with
      expected := s.ring.period.map fun p => time + p, expectedNumber := m.number + 1, misses := 0
      inRound := some { slots := (markSlots m).getD 0, arrived := 0, started := false, driven := none, use := use } } =
      s.ring.accepts time p m use := by
  rw [markSlots_of_good hg, RingPort.accepts, ← hl, ← hp]
  simp only [hp, Option.map_some]
  rfl

theorem acceptMark_follower (hr : s.role = .follower) (order : BoundaryOrder) :
    s.acceptMark time m order = (s.accepted time p m).continueBoundary m.number .acceptedMark order.complete := by
  have ring := openRound_accepts (time := time) hg hl hp .follow
  unfold State.acceptMark
  rw [State.accepted, ← ring]
  dsimp only
  split
  · rfl
  · rename_i h
    exact nomatch hr.symm.trans h

theorem acceptMark_master (hr : s.role = .master) (order : BoundaryOrder) :
    s.acceptMark time m order = { s with ring := s.ring.accepts time p m .returned, counters := (s.count 96).counters } := by
  have ring := openRound_accepts (time := time) hg hl hp .returned
  unfold State.acceptMark
  rw [← ring]
  dsimp only
  split
  · rename_i h
    exact nomatch hr.symm.trans h
  · rfl

end Accepts

/-! ### The entry to LOCKED -/

theorem enterLocked_ring (period : Nat) (s : State) : (s.enterLocked period).ring = { s.ring with
    lock := .locked, period := some period
    timer := match s.role with
      | .follower => none
      | .master => s.ring.timer } := by
  have role : State.role { s with ring := { s.ring with lock := .locked, period := some period } } = s.role := rfl
  unfold State.enterLocked
  dsimp only
  rw [role]
  cases s.role <;> simp

theorem enterLocked_told (period : Nat) (s : State) :
    Condition.ringLocked.isIn (s.enterLocked period).notices.latched = true :=
  latch_isIn_self _ _

/-- All that the entry to LOCKED can change. -/
theorem enterLocked_only (period : Nat) (s : State) : s.enterLocked period = { s with
    ring := (s.enterLocked period).ring, tx := (s.enterLocked period).tx, notices := (s.enterLocked period).notices } := by
  obtain ⟨hnow, hclosed, hheld, hboxes, hactive, hstaging, hbus, hengine, hcounters, hboundary, hdue, hrout, hbtx,
    hpending⟩ := enterLocked_frame period s
  exact State.ext hnow hclosed hheld hboxes hactive hstaging rfl rfl hbus hengine rfl hcounters hboundary hdue hrout hbtx
    hpending

end Sys2Proof.Machine
end

section
/-! HUNT, CONFIRM, the entry to LOCKED and the acceptance of a mark in LOCKED (04, R60 to R62, R66). -/

namespace Sys2Proof.Machine

/-- The confirming mark at a follower (04, R61, R62). -/
theorem confirm_follower {u : State} {p time : Nat} {m : RoundMark} (hg : GoodMark m) (hr : u.role = .follower)
    (order : BoundaryOrder) : ∃ v : State, v = { u with
        ring := { u.ring.accepts time p m .follow with timer := none, current := m.number }
        rout := u.rout ++ [.mark m], counters := (u.count 96).counters, tx := v.tx, notices := v.notices } ∧
      Condition.ringLocked.isIn v.notices.latched = true ∧
      State.boundaryRuns m.number .acceptedMark order.complete v ((u.enterLocked p).acceptMark time m order) := by
  have ring := enterLocked_ring p u
  have told := enterLocked_told p u
  have only := enterLocked_only p u
  generalize u.enterLocked p = y at *
  rw [hr] at ring
  have role : y.role = .follower := by rw [only]; exact hr
  refine ⟨y.accepted time p m, ?_, told, ?_⟩
  · rw [State.accepted, ring]
    rw [only]
    rfl
  · rw [acceptMark_follower hg (by rw [ring]) (by rw [ring]) role]
    exact continueBoundary_runs _ _ _ _

/-- The confirming mark at a master (04, R61, R66). -/
theorem confirm_master {u : State} {p time : Nat} {m : RoundMark} (hg : GoodMark m) (hr : u.role = .master)
    (order : BoundaryOrder) : ∃ t : State, (u.enterLocked p).acceptMark time m order = t ∧
      Condition.ringLocked.isIn t.notices.latched = true ∧ t = { u with
        ring := u.ring.accepts time p m .returned
        counters := (u.count 96).counters, tx := t.tx, notices := t.notices } := by
  have ring := enterLocked_ring p u
  have told := enterLocked_told p u
  have only := enterLocked_only p u
  generalize u.enterLocked p = y at *
  rw [hr] at ring
  have role : y.role = .master := by rw [only]; exact hr
  refine ⟨_, acceptMark_master hg (by rw [ring]) (by rw [ring]) role order, told, ?_⟩
  rw [ring]
  rw [only]
  rfl

/-- Settles O21: the judgement by the lock state, then the entry to LOCKED and the acceptance. -/
theorem lockIsLearntFromTwoMarks : Obligations.LockIsLearntFromTwoMarks := by
  constructor
  · intro time m order s ht u hh hl
    refine ⟨fun hg hj => ?_, fun hg => ?_⟩
    · rw [exec_mark_judged ht hh hg hj, judgeMark_hunt hl]
      rfl
    · rw [exec_mark_bad ht hh hg, badMark_unlocked (fun h => nomatch hl.symm.trans h)]
  · intro time m order r s ht u confirmed counted hh hl href
    refine ⟨fun hg hr hc => ?_, fun hg hr hm hc => ?_, fun hg hj hc => ?_, fun hg => ?_⟩
    · obtain ⟨v, hv, told, runs⟩ := confirm_follower (u := u) (p := time - r.time) (time := time) hg hr order
      refine ⟨v, _, ?_, hv, told, runs⟩
      rw [exec_mark_judged ht hh hg (.inl hr), judgeMark_confirms hl href hc]
    · obtain ⟨t, accepts, told, frame⟩ := confirm_master (u := u) (p := time - r.time) (time := time) hg hr order
      refine ⟨t, ?_, told, frame⟩
      rw [exec_mark_judged ht hh hg (.inr ⟨hr, hm⟩), judgeMark_confirms hl href hc, accepts]
    · rw [exec_mark_judged ht hh hg hj, judgeMark_replaces hl href hc, State.takeReference, ← hl]
    · rw [exec_mark_bad ht hh hg, badMark_unlocked (fun h => nomatch hl.symm.trans h)]

/-- Settles O22: the mark is judged inside its window, and accepted by role. -/
theorem markInWindowIsAccepted : Obligations.MarkInWindowIsAccepted := by
  intro time e p m order s ht u counted hh hl he hp hg hn early late
  have accepts (hj : u.judges m) : exec (.roundMarkArrival time m order) s = .next (u.acceptMark time m order) := by
    rw [exec_mark_judged ht hh hg hj, judgeMark_accepts hl he hp ⟨early, late⟩ hn]
  refine ⟨fun hr => ⟨u.accepted time p m, _, accepts (.inl hr), rfl, ?_⟩, fun hr hm => ?_⟩
  · rw [acceptMark_follower hg hl hp hr]
    exact continueBoundary_runs _ _ _ _
  · rw [accepts (.inr ⟨hr, hm⟩), acceptMark_master hg hl hp hr]

end Sys2Proof.Machine
end

section
/-! Misses in LOCKED, short of the third and the third, and the close of a window (04, R62 to R65, R67, R68, R71). -/

namespace Sys2Proof.Machine

/-! ### A deadline of a quiet part -/

/-- A quiet part has nothing to finish and no step to take. -/
theorem quiet_iff (s : State) : s.quiet = true ↔
    s.boundary = none ∧ s.restartDue = false ∧ s.canSelect = false ∧ s.canTake = false := by
  simp [State.quiet, and_assoc]

theorem finish_of_idle {s : State} (hb : s.boundary = none) (hr : s.restartDue = false) : s.finish = s := by
  rw [finish_of_closed hb, State.restarted, hr]
  rfl

theorem finish_of_quiet {s : State} (hq : s.quiet = true) : s.finish = s := by
  obtain ⟨hb, hr, -, -⟩ := (quiet_iff s).mp hq
  exact finish_of_idle hb hr

theorem settle_of_quiet {s : State} (hq : s.quiet = true) : s.settle = s := by
  obtain ⟨-, -, hs, ht⟩ := (quiet_iff s).mp hq
  simp [State.settle, State.settleBy, finish_of_quiet hq, hs, ht]

theorem ripe_of_quiet {s : State} (hq : s.quiet = true) (t : Nat) : s.ripe t = s := by
  simp [State.ripe, finish_of_quiet hq, settle_of_quiet hq]

theorem deadline_of_quiet {s : State} (hq : s.quiet = true) (find : State → Option Nat) : s.deadline find = find s := by
  rw [State.deadline, finish_of_quiet hq, settle_of_quiet hq]
  split
  · rename_i h
    rw [h]
  · rfl

theorem found_ring_of_quiet {s : State} (hq : s.quiet = true) (t : Nat) :
    (s.found t).ring = { s.ring with outRound := (s.found t).ring.outRound } := by
  have h := found_ring t s
  rwa [ripe_of_quiet hq] at h

/-! ### The close of a window -/

theorem roundCut_ring (x : State) : x.roundCut.ring = { x.ring with inRound := none } := by
  rw [← truncate_eq]
  unfold State.truncate
  split
  · rename_i h
    rw [← h]
  · dsimp only
    split <;> simp [cutInbound_ring]

/-- The part with a window just closed empty (log 32). -/
def State.withClosed (w : Nat) (s : State) : State := { s with windowClosed := some w }

theorem offer_withClosed (w : Nat) (s : State) : (s.withClosed w).offer = s.offer.withClosed w := by
  have flying : (s.withClosed w).hasInFlight Owner.isNotice = s.hasInFlight Owner.isNotice := rfl
  have waiting : (s.withClosed w).hasQueued Owner.isNotice = s.hasQueued Owner.isNotice := rfl
  unfold State.offer
  rw [flying, waiting]
  split
  · rfl
  · split <;> rfl

/-- The time of the last empty window is nothing a condition event reads. -/
theorem latch_withClosed (c : Condition) (w : Nat) (s : State) : (s.withClosed w).latch c = (s.latch c).withClosed w := by
  have latched : (s.withClosed w).notices = s.notices := rfl
  unfold State.latch
  rw [latched]
  split
  · rfl
  · dsimp only
    split
    · exact offer_withClosed w { s with notices := { s.notices with latched := s.notices.latched ||| c.bit } }
    · rfl

theorem roundCut_withClosed (w : Nat) (x : State) : (x.withClosed w).roundCut = x.roundCut.withClosed w := by
  have round : (x.withClosed w).ring.inRound = x.ring.inRound := rfl
  have image : (x.withClosed w).active = x.active := rfl
  unfold State.roundCut
  rw [round]
  cases x.ring.inRound with
  | none => rfl
  | some r =>
    dsimp only
    rw [image]
    split
    · rw [← latch_withClosed]
      rfl
    · rfl

theorem windowCloses_eq (x : State) :
    x.windowCloses = (x.roundCut.withClosed x.now).miss true (x.roundCut.ring.expectedNumber + 1) := by
  have cut : State.truncate { x with windowClosed := some x.now } = x.roundCut.withClosed x.now :=
    (truncate_eq _).trans (roundCut_withClosed x.now x)
  unfold State.windowCloses
  rw [cut]
  rfl

/-- The window of a quiet part in LOCKED closes at its end: the round is cut, and it is a miss (04, R62, R63, R65). -/
theorem exec_windowClose {s : State} {e p : Nat} (hq : s.quiet = true) (ho : s.inOrder (16 * e + p) = true)
    (hh : (s.found (16 * e + p)).roundCut.held = false) (hl : (s.found (16 * e + p)).roundCut.ring.lock = .locked)
    (he : (s.found (16 * e + p)).roundCut.ring.expected = some e)
    (hp : (s.found (16 * e + p)).roundCut.ring.period = some p) :
    exec .windowClose s = .next (State.miss true ((s.found (16 * e + p)).roundCut.ring.expectedNumber + 1)
      ((s.found (16 * e + p)).roundCut.withClosed (16 * e + p))) := by
  have hring := found_ring_of_quiet hq (16 * e + p)
  have hheld : (s.found (16 * e + p)).held = s.held := by rw [(found_frame _ s).2.1, ripe_of_quiet hq]
  rw [roundCut_ring, hring] at hl he hp
  dsimp only at hl he hp
  rw [roundCut_held, hheld] at hh
  have ends : s.windowEnd = some (16 * e + p) := by simp only [State.windowEnd, hl, he, hp]
  have inTime : s.inTime (16 * e + p) := by rwa [State.inTime, ripe_of_quiet hq]
  have closes := windowCloses_eq (s.found (16 * e + p))
  rw [(found_frame _ s).1] at closes
  rw [← closes]
  show Host.Outcome.next (match s.deadline State.windowEnd with
    | none => s
    | some w => s.atTime w (fun s => !s.held && decide (s.windowEnd = some w)) State.windowCloses) = _
  rw [deadline_of_quiet hq, ends]
  exact congrArg _ (atTime_of_occurs inTime (by simp [ripe_of_quiet hq, hh, ends]))

/-- A mark that comes at the very end of a window that has closed is too late (04, R62; log 32). -/
theorem exec_mark_too_late {time : Nat} {s : State} (hb : s.boundary = none) (hr : s.restartDue = false)
    (hn : s.now = 16 * time) (hc : s.windowClosed = some (16 * time)) (m : RoundMark) (order : BoundaryOrder) :
    exec (.roundMarkArrival time m order) s = .next s := by
  have ripe : s.ripe (ticks time) = s := by
    rw [State.ripe, if_pos (show ticks time = s.now from hn.symm), finish_of_idle hb hr]
  have late : s.markMayArrive time = false := decide_eq_false (not_not.mpr hc)
  show Host.Outcome.next (s.atTime (ticks time) (State.markMayArrive time) (State.markArrives time m order)) = _
  simp only [State.atTime, ripe, late, Bool.and_false]
  rfl

/-! ### A miss short of the third -/

theorem miss_short {s : State} (h : s.ring.misses < 2) (advance : Bool) (x : Byte) :
    s.miss advance x = { s.missed advance x with counters := (s.count 97).counters } :=
  missEffect_short (s := s.count Counter.markMisses) h advance x

/-- E moves on by P (04, R63). -/
theorem missed_advancing {s : State} {e p : Nat} (he : s.ring.expected = some e) (hp : s.ring.period = some p) (x : Byte) :
    s.missed true x = { s with ring := { s.ring with
      expected := some (e + p), expectedNumber := x, misses := s.ring.misses + 1 } } := by
  simp only [State.missed, he, hp]
  rfl

/-- Settles O23: the four marks by the window and the number, then the close of a window and what it rules out. -/
theorem missesMoveTheWindow : Obligations.MissesMoveTheWindow := by
  refine ⟨?_, ?_, fun time m order s hb hr hn hc => exec_mark_too_late hb hr hn hc m order⟩
  · intro time e p m order s ht u inside hh hl he hp hm
    refine ⟨fun hg hi => ?_, fun hg hj hi hn => ?_, fun hg hj hi => ?_, fun hg hi => ?_⟩
    · rw [exec_mark_bad ht hh hg, badMark_inside hl he hp hi, miss_short hm, missed_advancing he hp]
    · rw [exec_mark_judged ht hh hg hj, judgeMark_misses_inside hl he hp hi hn, miss_short hm, missed_advancing he hp]
    · rw [exec_mark_judged ht hh hg hj, judgeMark_misses_outside hl he hp hi, miss_short hm]
      rfl
    · rw [exec_mark_bad ht hh hg, badMark_outside hl he hp hi, miss_short hm]
      rfl
  · intro e p s hq ho u hh hl he hp hm
    rw [exec_windowClose hq ho hh hl he hp,
      miss_short (s := u.withClosed (16 * e + p)) hm, missed_advancing (s := u.withClosed (16 * e + p)) he hp]
    rfl

/-! ### The third miss -/

/-- All that the notice of a condition can change: the latched set, and the queue and the offer of a notice. -/
structure Told (s t : State) : Prop where
  frame : t = { s with
    tx := { s.tx with queued := t.tx.queued }
    notices := { s.notices with
      latched := t.notices.latched, deferred := t.notices.deferred, repeatCount := t.notices.repeatCount } }

theorem Told.refl (s : State) : Told s s := ⟨rfl⟩

theorem latch_tells (c : Condition) (s : State) : Told s (s.latch c) := by
  have h := latch_eq c s
  generalize s.latch c = t at h ⊢
  exact ⟨by rw [h]⟩

theorem Told.boxes {s t : State} (h : Told s t) : t.boxes = s.boxes := by rw [h.frame]

theorem Told.active {s t : State} (h : Told s t) : t.active = s.active := by rw [h.frame]

theorem Told.ring {s t : State} (h : Told s t) : t.ring = s.ring := by rw [h.frame]

theorem Told.bus {s t : State} (h : Told s t) : t.bus = s.bus := by rw [h.frame]

theorem Told.counters {s t : State} (h : Told s t) : t.counters = s.counters := by rw [h.frame]

theorem Told.attention {s t : State} (h : Told s t) : t.notices.attention = s.notices.attention := by rw [h.frame]

theorem Told.eq {s t : State} (h : Told s t) : t = { s with tx := t.tx, notices := t.notices } := by
  rw [h.frame]

/-- A miss goes by the ring port alone. -/
theorem Told.missed {s t : State} (h : Told s t) (advance : Bool) (n : Byte) :
    t.missed advance n = { s.missed advance n with tx := t.tx, notices := t.notices } := by
  rw [h.eq]
  rfl

/-- Class LOST is given by what the mailboxes, the images, the bus and the attention set were. -/
theorem givesClassLost_congr {u y t : State} (ha : y.active = u.active) (hb : y.boxes = u.boxes)
    (hf : y.bus.flight = u.bus.flight) (hn : y.notices.attention = u.notices.attention)
    (hl : ∀ m, y.live (counterB m) = u.live (counterB m)) (h : State.givesClassLost y t) : State.givesClassLost u t := by
  have hflight (p : Owner → Bool) : y.hasInFlight p = u.hasInFlight p := by
    simp only [State.hasInFlight, inFlight_congr hf]
  simp only [State.givesClassLost, State.dependsOnLock, State.tested, State.marksAttention, config_congr ha, ha,
    box_congr hb, hflight, hn, hl] at h ⊢
  exact h

/-- No counter of a mailbox is one of the whole part's (10, R184). -/
theorem ne_counterB {k : Fin 111} (hk : 96 ≤ k.val) (m : Fin 32) : k ≠ counterB m := by
  intro h
  have := congrArg Fin.val h
  simp only [counterB] at this
  omega

theorem count_live_counterB {k : Fin 111} (hk : 96 ≤ k.val) (m : Fin 32) (s : State) :
    (s.count k).live (counterB m) = s.live (counterB m) :=
  count_live_other (ne_counterB hk m).symm s

/-- The part when a lost lock has been counted and told, before class LOST is given. -/
def State.lossTold (s : State) : State := (s.huntsAgain.count Counter.lockLosses).latch .ringLost

/-- At a loss it does not matter what the miss made of E, X and the miss count (04, R64). -/
theorem lossTold_tells {u x : State} (hx : Told (u.count Counter.markMisses) x) (advance : Bool)
    (n : Byte) : Told ((u.huntsAgain.count Counter.markMisses).count Counter.lockLosses)
      (x.missed advance n).lossTold := by
  have h := (latch_tells .ringLost ((x.missed advance n).huntsAgain.count Counter.lockLosses)).frame
  change (x.missed advance n).lossTold = _ at h
  generalize (x.missed advance n).lossTold = y at h ⊢
  constructor
  rw [h, hx.frame]
  rfl

/-- The loss of the lock by the part `x`, which has counted the miss of `u` (04, R64, R68, R71). -/
theorem losesLock_of_told {u x : State} (hx : Told (u.count Counter.markMisses) x) (advance : Bool)
    (n : Byte) : State.losesLock u (x.missed advance n).loseLock := by
  obtain ⟨gives, only⟩ := giveClassLost_gives (x.missed advance n).lossTold
  have hy := lossTold_tells hx advance n
  have latched : Condition.ringLost.isIn (x.missed advance n).lossTold.notices.latched = true := latch_isIn_self _ _
  have hloss : (x.missed advance n).loseLock = (x.missed advance n).lossTold.giveClassLost := loseLock_eq _
  rw [hloss]
  generalize (x.missed advance n).lossTold.giveClassLost = t at gives only ⊢
  generalize (x.missed advance n).lossTold = y at gives only hy latched
  have ring : t.ring = u.huntsAgain.ring := by
    rw [only.frame]
    exact hy.ring
  have counted (k : Fin 111) : y.live k = ((u.count 97).count 99).live k := live_congr hy.counters k
  have live {k : Fin 111} (hk : 96 ≤ k.val) : t.live k = ((u.count 97).count 99).live k :=
    (only.live k (ne_counterB hk)).trans (counted k)
  refine ⟨?_, ?_, ?_, fun k hk h97 h99 => ?_, only.latched _ latched, ?_, ?_⟩
  · rw [ring]
    rfl
  · rw [live (by decide), count_live_other (by decide), count_live_self]
  · rw [live (by decide), count_live_self, count_live_other (by decide)]
  · rw [live hk, count_live_other h99, count_live_other h97]
  · refine givesClassLost_congr hy.active hy.boxes (congrArg BusPort.flight hy.bus) hy.attention (fun m => ?_) gives
    rw [counted, count_live_counterB (by decide), count_live_counterB (by decide)]
  · rw [only.frame, hy.frame]
    rfl

theorem miss_third {s : State} (h : s.ring.misses = 2) (advance : Bool) (n : Byte) :
    State.losesLock s (s.miss advance n) := by
  have third : s.miss advance n = ((s.count Counter.markMisses).missed advance n).loseLock :=
    missEffect_third (s := s.count Counter.markMisses) (Nat.le_of_eq h.symm) advance n
  rw [third]
  exact losesLock_of_told (Told.refl (s.count Counter.markMisses)) advance n

/-! ### A foreign mark -/

/-- A foreign mark told and counted (04, R67). -/
def State.foreignTold (s : State) : State := (s.latch .ringForeign).count Counter.markMisses

theorem foreignTold_tells (s : State) : Told (s.count Counter.markMisses) s.foreignTold := by
  have h := (latch_tells .ringForeign s).frame
  unfold State.foreignTold
  generalize s.latch .ringForeign = x at h ⊢
  constructor
  rw [h]
  rfl

theorem foreignTold_latched (s : State) : Condition.ringForeign.isIn s.foreignTold.notices.latched = true :=
  latch_isIn_self _ _

theorem foreignMark_unlocked {s : State} (hl : s.ring.lock ≠ .locked) (time : Nat) (n : Byte) :
    s.foreignMark time n = s.foreignTold := by
  have lock : s.foreignTold.ring.lock = s.ring.lock := by simp [State.foreignTold]
  unfold State.foreignMark
  change (match s.foreignTold.ring.lock with
    | .locked => s.foreignTold.missEffect (s.foreignTold.windowOpen time) (n + 1)
    | .hunt | .confirm => s.foreignTold) = s.foreignTold
  rw [lock]
  split
  · exact absurd (by assumption) hl
  · rfl
  · rfl

theorem foreignMark_locked {s : State} (hl : s.ring.lock = .locked) (time : Nat) (n : Byte) :
    s.foreignMark time n = s.foreignTold.missEffect (s.windowOpen time) (n + 1) := by
  have ring : s.foreignTold.ring = s.ring := by simp [State.foreignTold]
  have window : s.foreignTold.windowOpen time = s.windowOpen time := by simp only [State.windowOpen, ring]
  have lock : s.foreignTold.ring.lock = .locked := by rw [ring, hl]
  rw [← window]
  change (match s.foreignTold.ring.lock with
    | .locked => s.foreignTold.missEffect (s.foreignTold.windowOpen time) (n + 1)
    | .hunt | .confirm => s.foreignTold) = _
  rw [lock]

/-- The loss of the lock clears no latched flag (10, R174). -/
theorem loseLock_latched {s : State} {c : Condition} (h : c.isIn s.notices.latched = true) :
    c.isIn s.loseLock.notices.latched = true := by
  obtain ⟨-, only⟩ := giveClassLost_gives s.lossTold
  have told : c.isIn s.lossTold.notices.latched = true := by
    rw [State.lossTold, latch_isIn]
    simp [State.huntsAgain, h]
  have hloss : s.loseLock = s.lossTold.giveClassLost := loseLock_eq s
  rw [hloss]
  exact only.latched c told

/-- A foreign mark that is a third miss (04, R64, R67). -/
theorem foreignMark_third {s : State} (hl : s.ring.lock = .locked) (hm : 2 ≤ s.ring.misses) (time : Nat) (n : Byte) :
    State.losesLock s (s.foreignMark time n) ∧
      Condition.ringForeign.isIn (s.foreignMark time n).notices.latched = true := by
  have ring : s.foreignTold.ring = s.ring := by simp [State.foreignTold]
  rw [foreignMark_locked hl, missEffect_third (by rwa [ring])]
  exact ⟨losesLock_of_told (foreignTold_tells s) _ _,
    loseLock_latched (s := s.foreignTold.missed _ _) (foreignTold_latched s)⟩

/-- A foreign mark that is a miss short of the third (04, R63, R67). -/
theorem foreignMark_short {s : State} (hl : s.ring.lock = .locked) (hm : s.ring.misses < 2) (time : Nat) (n : Byte) :
    s.foreignMark time n = s.foreignTold.missed (s.windowOpen time) (n + 1) := by
  have ring : s.foreignTold.ring = s.ring := by simp [State.foreignTold]
  rw [foreignMark_locked hl, missEffect_short (by rwa [ring])]

/-- Settles O24: each kind of miss finds two before it, and loses the lock. -/
theorem thirdMissLosesTheLock : Obligations.ThirdMissLosesTheLock := by
  constructor
  · intro time e p m order s ht u inside foreign hh hl he hp hm kinds
    by_cases hg : GoodMark m
    · by_cases hf : foreign
      · obtain ⟨loses, told⟩ := foreignMark_third hl (Nat.le_of_eq hm.symm) time m.number
        exact ⟨_, exec_mark_foreign ht hh hg hf.2.1 hf.2.2 order, loses, fun _ => told⟩
      · obtain ⟨hj, outside⟩ := (kinds.resolve_left (not_not.mpr hg)).resolve_left hf
        have exec_eq := exec_mark_judged ht hh hg hj order
        by_cases hi : inside
        · rw [judgeMark_misses_inside hl he hp hi (outside.resolve_right (not_not.mpr hi))] at exec_eq
          exact ⟨_, exec_eq, miss_third hm _ _, fun h => absurd h hf⟩
        · rw [judgeMark_misses_outside hl he hp hi] at exec_eq
          exact ⟨_, exec_eq, miss_third hm _ _, fun h => absurd h hf⟩
    · have exec_eq := exec_mark_bad ht hh hg order
      by_cases hi : inside
      · rw [badMark_inside hl he hp hi] at exec_eq
        exact ⟨_, exec_eq, miss_third hm _ _, fun h => absurd h.1 hg⟩
      · rw [badMark_outside hl he hp hi] at exec_eq
        exact ⟨_, exec_eq, miss_third hm _ _, fun h => absurd h.1 hg⟩
  · intro e p s hq ho u hh hl he hp hm
    exact ⟨_, exec_windowClose hq ho hh hl he hp, miss_third (s := u.withClosed (16 * e + p)) hm _ _⟩

/-- What a foreign mark leaves of counters 96 and 97 and of RING_FOREIGN, whatever the lock state (04, R67). -/
theorem foreignMark_counted (time : Nat) (n : Byte) (s : State) :
    (s.foreignMark time n).live 97 = satSucc (s.live 97) ∧ (s.foreignMark time n).live 96 = s.live 96 ∧
      Condition.ringForeign.isIn (s.foreignMark time n).notices.latched = true := by
  have counters : s.foreignTold.counters = (s.count 97).counters := (foreignTold_tells s).counters
  have told : s.foreignTold.live 97 = satSucc (s.live 97) ∧ s.foreignTold.live 96 = s.live 96 ∧
      Condition.ringForeign.isIn s.foreignTold.notices.latched = true := by
    refine ⟨?_, ?_, foreignTold_latched s⟩
    · rw [live_congr counters, count_live_self]
    · rw [live_congr counters, count_live_other (by decide)]
  by_cases hl : s.ring.lock = .locked
  · by_cases hm : s.ring.misses < 2
    · rw [foreignMark_short hl hm]
      exact told
    · obtain ⟨⟨-, misses, -, others, -⟩, latched⟩ := foreignMark_third hl (Nat.not_lt.mp hm) time n
      exact ⟨misses, others 96 (by decide) (by decide) (by decide), latched⟩
  · rw [foreignMark_unlocked hl]
    exact told

/-- Settles O25: a foreign mark is told and counted, and in LOCKED it is a miss. -/
theorem foreignMarkIsDiscarded : Obligations.ForeignMarkIsDiscarded := by
  intro time m order s ht u hh hr hg hm
  obtain ⟨misses, accepted, latched⟩ := foreignMark_counted time m.number u
  refine ⟨_, exec_mark_foreign ht hh hg hr hm order, misses, accepted, latched, fun hl => ?_, fun e p hl he hp hshort => ?_⟩
  · change u.foreignMark time m.number = _
    rw [foreignMark_unlocked hl]
    exact (foreignTold_tells u).eq
  · change u.foreignMark time m.number = _
    rw [foreignMark_short hl hshort, (foreignTold_tells u).missed]
    by_cases hi : 16 * e ≤ 16 * time + p ∧ 16 * time ≤ 16 * e + p
    · rw [if_pos hi, (windowOpen_iff he hp time).mpr hi, missed_advancing (s := u.count Counter.markMisses) he hp]
      rfl
    · rw [if_neg hi, Bool.eq_false_iff.mpr (mt (windowOpen_iff he hp time).mp hi)]
      rfl

end Sys2Proof.Machine
end

section
/-! The expiries of the round timer, and the boundaries they raise (04, R57 to R59, R69, R70, R73; 03, R45). -/

namespace Sys2Proof.Machine

/-! ### The course of a boundary, read at its end -/

/-- The works of a boundary leave alone all that its end goes by. -/
structure SameClock (s x : State) : Prop where
  now : x.now = s.now
  active : x.active = s.active
  ring : x.ring = s.ring

theorem SameClock.trans {s x y : State} (h : SameClock s x) (g : SameClock x y) : SameClock s y :=
  ⟨g.now.trans h.now, g.active.trans h.active, g.ring.trans h.ring⟩

theorem work_sameClock (w : BoundaryWork) (s : State) : SameClock s (s.work w).1 := ⟨by simp, by simp, by simp⟩

/-- A boundary waits for a step, or all its works are done and it ends (04, R70; log 5). -/
theorem continueBoundary_waits_or_ends (n : Byte) (cause : BoundaryCause) (l : BoundaryOrder) (s : State) :
    ((s.continueBoundary n cause l).boundary ≠ none ∧ (s.continueBoundary n cause l).ring = s.ring) ∨
      ∃ x, SameClock s x ∧ s.continueBoundary n cause l = x.closeBoundary cause := by
  induction l generalizing s with
  | nil => exact .inr ⟨s, ⟨rfl, rfl, rfl⟩, rfl⟩
  | cons w l ih =>
    have clock := work_sameClock w s
    unfold State.continueBoundary
    generalize s.work w = done at clock ⊢
    rcases done with ⟨y, _ | d⟩
    · rcases ih y with ⟨waits, ring⟩ | ⟨x, same, ends⟩
      · exact .inl ⟨waits, ring.trans clock.ring⟩
      · exact .inr ⟨x, clock.trans same, ends⟩
    · exact .inl ⟨Option.some_ne_none _, clock.ring⟩

/-- The end of a boundary changes neither the round number nor the lock. -/
theorem closeBoundary_keeps (cause : BoundaryCause) (x : State) :
    (x.closeBoundary cause).ring.current = x.ring.current ∧ (x.closeBoundary cause).ring.lock = x.ring.lock := by
  have ends := closeBoundary_ends cause x
  unfold State.boundaryEnds at ends
  dsimp only at ends
  split at ends <;> rw [ends] <;> exact ⟨rfl, rfl⟩

theorem continueBoundary_keeps (n : Byte) (cause : BoundaryCause) (l : BoundaryOrder) (s : State) :
    (s.continueBoundary n cause l).ring.current = s.ring.current ∧
      (s.continueBoundary n cause l).ring.lock = s.ring.lock := by
  rcases continueBoundary_waits_or_ends n cause l s with ⟨-, ring⟩ | ⟨x, same, ends⟩
  · rw [ring]
    exact ⟨rfl, rfl⟩
  · rw [ends, ← same.ring]
    exact closeBoundary_keeps cause x

/-- The number just emitted is the last of those kept (04, R59). -/
theorem getLast?_kept (l : List Byte) (a : Byte) : ((l ++ [a]).drop (l.length + 1 - 4)).getLast? = some a := by
  rw [List.getLast?_drop, if_neg (by simp), List.getLast?_concat]

/-- A master's boundary that is over has re-armed the timer and begun the round (03, R45; 04, R57, R58, R59). -/
theorem continueBoundary_master {s : State} {n : Byte} {l : BoundaryOrder} (hr : s.role = .master)
    (ht : s.ring.timer ≠ none) (hb : (s.continueBoundary n .masterTimer l).boundary = none) :
    (s.continueBoundary n .masterTimer l).ring.timer = some
        { period := s.active.profile.roundPeriod, next := s.now + 16 * s.active.profile.roundPeriod } ∧
      (s.continueBoundary n .masterTimer l).ring.emitted.getLast? = some s.ring.current ∧
      (s.continueBoundary n .masterTimer l).ring.outRound = some {
        start := s.now, slots := s.active.profile.slotCount.toNat, next := 0, sending := none
        mark := {
          pattern := 0xE7, number := s.ring.current, count := BitVec.ofNat 8 s.active.profile.slotCount.toNat
          check := s.ring.current ^^^ BitVec.ofNat 8 s.active.profile.slotCount.toNat ^^^ 0x5A } } := by
  rcases continueBoundary_waits_or_ends n .masterTimer l s with ⟨waits, -⟩ | ⟨x, ⟨now, active, ring⟩, ends⟩
  · exact absurd hb waits
  · have role : x.role = .master := by rw [State.role, active]; exact hr
    have closed := closeBoundary_ends .masterTimer x
    unfold State.boundaryEnds at closed
    simp only [role, now, active, ring, if_neg ht] at closed
    rw [ends, closed]
    exact ⟨rfl, getLast?_kept _ _, rfl⟩

/-- A local boundary that is over has re-armed the timer (04, R57). -/
theorem continueBoundary_local {s : State} {n : Byte} {l : BoundaryOrder} (ht : s.ring.timer ≠ none)
    (hb : (s.continueBoundary n .localTimer l).boundary = none) :
    (s.continueBoundary n .localTimer l).ring.timer = some
      { period := s.active.profile.roundPeriod, next := s.now + 16 * s.active.profile.roundPeriod } := by
  rcases continueBoundary_waits_or_ends n .localTimer l s with ⟨waits, -⟩ | ⟨x, ⟨now, active, ring⟩, ends⟩
  · exact absurd hb waits
  · have closed := closeBoundary_ends .localTimer x
    unfold State.boundaryEnds at closed
    simp only [now, active, ring, if_neg ht] at closed
    rw [ends, closed]

/-! ### The expiries -/

/-- An expiry of a quiet part's timer comes at the timer's own time (04, R57). -/
theorem expire_of_quiet {s : State} {w : Nat} {role : RingRole} (hq : s.quiet = true) (ho : s.inOrder w = true)
    (hh : (s.found w).held = false) (hr : (s.found w).role = role)
    (hn : (s.found w).ring.timer.map (fun x => x.next) = some w) (effect : State → State) :
    s.expire role effect = effect (s.found w) := by
  have hring := found_ring_of_quiet hq w
  have held : s.held = false := by
    rwa [(found_frame w s).2.1, ripe_of_quiet hq] at hh
  have same_role : s.role = role := by
    rwa [State.role, (found_frame w s).2.2.1, ripe_of_quiet hq] at hr
  have next : s.nextExpiry = some w := by
    rwa [hring] at hn
  have inTime : s.inTime w := by rwa [State.inTime, ripe_of_quiet hq]
  unfold State.expire
  rw [deadline_of_quiet hq, next]
  exact atTime_of_occurs inTime (by simp [ripe_of_quiet hq, held, same_role, next])

theorem timer_runs {s : State} {w : Nat} (h : s.ring.timer.map (fun x => x.next) = some w) : s.ring.timer ≠ none := by
  intro ht
  simp [ht] at h

theorem dropThrough_keeps {s : State} (h : ∀ r, s.ring.inRound = some r → r.use ≠ .passThrough) :
    s.dropThrough = s := by
  unfold State.dropThrough
  split
  · rename_i r hr
    exact if_neg (h r hr)
  · rfl

theorem dropThrough_cuts {s : State} {r : InRound} (hr : s.ring.inRound = some r) (hu : r.use = .passThrough) :
    s.dropThrough = { s with
      ring := { s.ring with inRound := none }
      rout := s.rout ++ if r.started = true then [.partialSlot r.arrived] else [] } := by
  unfold State.dropThrough State.cutInbound
  simp only [hr, hu, if_true]
  cases r.started <;> simp [State.emitRing]

/-- The part a master takes the works of its boundary on (04, R58, R73). -/
def State.masterBegins (u : State) : State :=
  { u.dropThrough with ring := { u.dropThrough.ring with current := u.nextNumber } }

theorem masterExpiry_eq (u : State) (order : BoundaryOrder) :
    u.masterExpiry order = u.masterBegins.continueBoundary u.nextNumber .masterTimer order.complete := rfl

theorem masterBegins_timer (u : State) : u.masterBegins.ring.timer = none ↔ u.ring.timer = none :=
  (dropThrough_sameTiming u).timer

theorem masterBegins_lock (u : State) : u.masterBegins.ring.lock = u.ring.lock := (dropThrough_sameTiming u).lock

@[simp] theorem masterBegins_frame (u : State) :
    u.masterBegins.now = u.now ∧ u.masterBegins.active = u.active ∧ u.masterBegins.role = u.role := by
  simp [State.masterBegins, State.role]

/-- Settles O28: each expiry raises its boundary, whose end re-arms the timer and begins a master's round. -/
theorem timersRaiseBoundaries : Obligations.TimersRaiseBoundaries := by
  refine ⟨?_, ?_, fun order => ⟨complete_perm_standard order, complete_of_perm⟩⟩
  · intro w order s hq ho u number p slots hh hr hn
    obtain ⟨now, active, role⟩ := masterBegins_frame u
    obtain ⟨current, lock⟩ := continueBoundary_keeps number .masterTimer order.complete u.masterBegins
    refine ⟨u.masterBegins, u.masterBegins.continueBoundary number .masterTimer order.complete, ?_, fun h => ?_,
      fun r hin hu => ?_, continueBoundary_runs _ _ _ _, current, ?_, lock.trans (masterBegins_lock u), fun hb => ?_⟩
    · exact congrArg _ (expire_of_quiet hq ho hh hr hn _)
    · rw [State.masterBegins, dropThrough_keeps h]
      rfl
    · rw [State.masterBegins, dropThrough_cuts hin hu]
      rfl
    · simp
    · have closed := continueBoundary_master (role.trans hr) (mt (masterBegins_timer u).mp (timer_runs hn)) hb
      rw [now, active, (found_frame w s).1] at closed
      exact closed
  · intro w order s hq ho u p hh hr hn
    obtain ⟨current, lock⟩ := continueBoundary_keeps (u.ring.current + 1) .localTimer order.complete
      { u with ring := { u.ring with current := u.ring.current + 1 } }
    refine ⟨u.localExpiry order, ?_, continueBoundary_runs _ _ _ _, current, by simp, by simp, lock, fun hb => ?_⟩
    · exact congrArg _ (expire_of_quiet hq ho hh hr hn _)
    · have closed := continueBoundary_local (s := { u with ring := { u.ring with current := u.ring.current + 1 } })
        (timer_runs hn) hb
      dsimp only at closed
      rw [(found_frame w s).1] at closed
      exact closed

end Sys2Proof.Machine
end

section
/-! Report ageing and the heartbeat at a round boundary (05, R83, R85). Ageing at one mailbox is said once, by its three
cases; the ageing of the other mailboxes, before and after it, leaves that mailbox and what is queued alone. -/

namespace Sys2Proof.Machine

/-- A REPORT mailbox that the boundary ages (05, R83). -/
def State.agesReport (s : State) (m : Fin 32) : Prop :=
  (s.config m).kind = .report ∧ (s.box m).state ≠ .void

/-- The heartbeat test finds a trigger at the mailbox's next age (05, R83). -/
def State.beats (s : State) (m : Fin 32) : Prop :=
  (s.config m).limit ≠ 0 ∧ (s.config m).limit ≤ satSucc (s.box m).age ∧ (s.box m).state = .quiet ∧
    ((s.box m).classSeen = .live ∨ ((s.box m).classSeen.degraded = true ∧ (s.config m).degraded ≠ .suppress))

theorem heartbeat_iff (s : State) (m : Fin 32) :
    heartbeat (s.config m) { s.box m with age := satSucc (s.box m).age } = true ↔ s.beats m := by
  simp [heartbeat, State.beats, and_assoc]

/-! ### Ageing at one mailbox -/

theorem setBox_setBox (m : Fin 32) (b c : Runtime) (s : State) : (s.setBox m b).setBox m c = s.setBox m c := by
  simp [State.setBox]

theorem placeReport_places (m : Fin 32) (s : State) :
    ∃ e ∈ (s.placeReport m).tx.queued, e.owner = .report m (s.box m).generation ∧ e.attempts = 0 :=
  ⟨_, mem_insertEntry.mpr (.inl rfl), rfl, rfl⟩

/-- The trigger of a QUIET mailbox, which has no entry of its own generation (05, R85; 01, R13). -/
theorem trigger_of_quiet {s : State} {m : Fin 32} (h : (s.box m).state = .quiet) : s.trigger m =
    if s.hasInFlight (Owner.isReportOf m) = true then s.setBox m { s.box m with state := .pending }
    else (s.setBox m { s.box m with state := .pending }).placeReport m := by
  simp only [State.trigger, h]
  rfl

/-- The part after a heartbeat at mailbox m but for the mailbox's entry (05, R83, R85). -/
def State.beaten (s : State) (m : Fin 32) : State :=
  s.setBox m { s.box m with age := satSucc (s.box m).age, state := .pending }

theorem ageReport_of_beats {s : State} {m : Fin 32} (ha : s.agesReport m) (hb : s.beats m) :
    s.ageReport m = if s.hasInFlight (Owner.isReportOf m) = true then s.beaten m else (s.beaten m).placeReport m := by
  obtain ⟨-, -, quiet, -⟩ := id hb
  have aged : s.ageReport m = (s.setBox m { s.box m with age := satSucc (s.box m).age }).trigger m :=
    (if_pos ha).trans (if_pos ((heartbeat_iff s m).mpr hb))
  rw [aged, trigger_of_quiet (by rw [setBox_box_self]; exact quiet), setBox_box_self, setBox_setBox]
  rfl

theorem ageReport_of_not_beats {s : State} {m : Fin 32} (ha : s.agesReport m) (hb : ¬ s.beats m) :
    s.ageReport m = s.setBox m { s.box m with age := satSucc (s.box m).age } :=
  (if_pos ha).trans (if_neg (mt (heartbeat_iff s m).mp hb))

theorem ageReport_of_not_agesReport {s : State} {m : Fin 32} (ha : ¬ s.agesReport m) : s.ageReport m = s :=
  if_neg ha

/-- Ageing ends in the mailbox and the queue: it counts nothing and marks nothing. -/
theorem ageReport_counters_notices (m : Fin 32) (s : State) :
    (s.ageReport m).counters = s.counters ∧ (s.ageReport m).notices = s.notices := by
  by_cases ha : s.agesReport m
  · by_cases hb : s.beats m
    · rw [ageReport_of_beats ha hb]
      split <;> exact ⟨rfl, rfl⟩
    · rw [ageReport_of_not_beats ha hb]
      exact ⟨rfl, rfl⟩
  · rw [ageReport_of_not_agesReport ha]
    exact ⟨rfl, rfl⟩

theorem ageReport_only (m : Fin 32) (s : State) : OnlyMailbox m s (s.ageReport m) := by
  unfold State.ageReport
  dsimp only
  split
  · split
    · exact (setBox_only m _ s).trans (trigger_only m _)
    · exact setBox_only m _ s
  · exact OnlyMailbox.refl m s

/-! ### Ageing at the other mailboxes -/

/-- What ageing at mailbox m reads is as it was, and no entry has left the queue. -/
structure SameReport (m : Fin 32) (s t : State) : Prop where
  box : t.box m = s.box m
  active : t.active = s.active
  bus : t.bus = s.bus
  queued : ∀ e ∈ s.tx.queued, e ∈ t.tx.queued

theorem ageReports_sameReport {l : List (Fin 32)} {m : Fin 32} (hm : m ∉ l) (s : State) :
    SameReport m s (l.foldl (fun s j => s.ageReport j) s) := by
  induction l generalizing s with
  | nil => exact ⟨rfl, rfl, rfl, fun _ h => h⟩
  | cons j l ih =>
    obtain ⟨hj, hl⟩ := List.ne_and_not_mem_of_not_mem_cons hm
    have first := ageReport_only j s
    have rest := ih hl (s.ageReport j)
    exact ⟨rest.box.trans (first.box m hj), rest.active.trans (by simp), rest.bus.trans (by simp),
      fun e he => rest.queued e (first.queued e he)⟩

theorem SameReport.agesReport {m : Fin 32} {s t : State} (h : SameReport m s t) : t.agesReport m ↔ s.agesReport m := by
  simp only [State.agesReport, config_congr h.active, h.box]

theorem SameReport.beats {m : Fin 32} {s t : State} (h : SameReport m s t) : t.beats m ↔ s.beats m := by
  simp only [State.beats, config_congr h.active, h.box]

theorem SameReport.hasInFlight {m : Fin 32} {s t : State} (h : SameReport m s t) (p : Owner → Bool) :
    t.hasInFlight p = s.hasInFlight p := by
  simp only [State.hasInFlight, State.inFlight, h.bus]

/-! ### The work of a boundary -/

theorem work_reportAgeing (s : State) : (s.work .reportAgeing).1 = allBoxes.foldl (fun s m => s.ageReport m) s := by
  simp only [State.work]

/-- The work reaches every mailbox once. -/
theorem work_reportAgeing_at (m : Fin 32) (s : State) :
    ∃ x, SameReport m s x ∧ SameReport m (x.ageReport m) (s.work .reportAgeing).1 := by
  obtain ⟨before, after, hall, hbefore⟩ := List.eq_append_cons_of_mem (List.mem_finRange m)
  have once : (before ++ m :: after).Nodup := hall ▸ List.nodup_finRange 32
  have hafter : m ∉ after := (List.nodup_cons.mp (List.nodup_append.mp once).2.1).1
  refine ⟨before.foldl (fun s j => s.ageReport j) s, ageReports_sameReport hbefore s, ?_⟩
  rw [work_reportAgeing, allBoxes, hall, List.foldl_append, List.foldl_cons]
  exact ageReports_sameReport hafter _

theorem work_reportAgeing_counters (s : State) : (s.work .reportAgeing).1.counters = s.counters := by
  rw [work_reportAgeing]
  exact foldl_keeps (f := State.counters) (fun s m => (ageReport_counters_notices m s).1) allBoxes s

theorem work_reportAgeing_notices (s : State) : (s.work .reportAgeing).1.notices = s.notices := by
  rw [work_reportAgeing]
  exact foldl_keeps (f := State.notices) (fun s m => (ageReport_counters_notices m s).2) allBoxes s

theorem work_reportAgeing_engine (s : State) : (s.work .reportAgeing).1.engine = s.engine := by
  rw [work_reportAgeing]
  exact foldl_keeps (f := State.engine) (fun s m => by simp) allBoxes s

/-- Settles O30: ageing at one mailbox, between the ageing of the others. -/
theorem reportAgeingAndHeartbeat : Obligations.ReportAgeingAndHeartbeat := by
  intro s m
  obtain ⟨x, before, after⟩ := work_reportAgeing_at m s
  refine ⟨fun ha hb => ?_, fun ha hb => ?_, fun ha => ?_, work_reportAgeing_counters s, work_reportAgeing_notices s,
    by simp, by simp, work_reportAgeing_engine s, by simp, by simp⟩
  · have aged := ageReport_of_beats (before.agesReport.mpr ha) (before.beats.mpr hb)
    rw [before.hasInFlight] at aged
    refine ⟨?_, fun hf => ?_⟩
    · rw [after.box, aged, ← before.box]
      split <;> exact setBox_box_self m _ x
    · rw [hf, if_neg Bool.false_ne_true] at aged
      obtain ⟨e, queued, owner, attempts⟩ := placeReport_places m (x.beaten m)
      rw [State.beaten, setBox_box_self] at owner
      exact ⟨e, after.queued e (aged ▸ queued), before.box ▸ owner, attempts⟩
  · rw [after.box, ageReport_of_not_beats (before.agesReport.mpr ha) (mt before.beats.mp hb), setBox_box_self,
      before.box]
  · rw [after.box, ageReport_of_not_agesReport (mt before.agesReport.mp ha), before.box]

end Sys2Proof.Machine
end

section
/-! The completion of a report of the current generation (05, R88; 07, R119). The queue's own outcome is said once; the
self-feed of its frame (02, R19) is said of any part that an outcome leaves, whatever the outcome placed. -/

namespace Sys2Proof.Machine

/-! ### Counter 3m among the others (10, R184) -/

theorem counterA_ne_counterA {j m : Fin 32} (h : j ≠ m) : counterA j ≠ counterA m := by
  simp only [counterA, ne_eq, Fin.mk.injEq]
  omega

theorem counterB_ne_counterA (j m : Fin 32) : counterB j ≠ counterA m := by
  simp only [counterA, counterB, ne_eq, Fin.mk.injEq]
  omega

theorem counterC_ne_counterA (j m : Fin 32) : counterC j ≠ counterA m := by
  simp only [counterA, counterC, ne_eq, Fin.mk.injEq]
  omega

theorem ne_counterA_of_le {k : Fin 111} (hk : 96 ≤ k.val) (m : Fin 32) : k ≠ counterA m := by
  simp only [counterA, ne_eq, Fin.ext_iff]
  omega

/-! ### Self-feed after an outcome -/

/-- The frame of a completed report is offered to the mailboxes when self-feed is on (02, R19). -/
def State.fed (f : Frame) (s : State) : State := if s.active.profile.selfFeed = true then s.offerToMatch f else s

theorem selfFeed_of_report {e : Entry} {m : Fin 32} {g : Byte} (h : e.owner = .report m g) (f : Frame) (s : State) :
    s.selfFeed e f = s.fed f := by
  simp only [State.selfFeed, h, State.fed]

/-- The part `x` that the outcome of an attempt leaves of `u`, as its queue, its notice unit and the mailboxes that take the
frame have it: entries of these owners have joined the queue, ahead of any notice of the same event. -/
structure Outcome (f : Frame) (owners : List Owner) (u x : State) : Prop where
  active : x.active = u.active
  engine : x.engine = u.engine
  notices : x.notices = u.notices
  box : ∀ j, u.takesFrame f j → x.box j = u.box j
  placed : u.placedInOrder owners x
  reports : ∀ o ∈ owners, o.isNotice = false
  flight : x.hasInFlight Owner.isNotice = u.hasInFlight Owner.isNotice
  stamps : ∀ e ∈ x.tx.queued, e.stamp < x.tx.epoch * 64 + 40

section
variable {f : Frame} {owners : List Owner} {u x : State}

theorem Outcome.fed_on (h : Outcome f owners u x) (on : u.active.profile.selfFeed = true) :
    x.fed f = x.offerToMatch f :=
  if_pos (by rw [h.active]; exact on)

theorem Outcome.fed_off (h : Outcome f owners u x) (off : ¬ u.active.profile.selfFeed = true) : x.fed f = x :=
  if_neg (by rw [h.active]; exact off)

theorem Outcome.matchedAt (h : Outcome f owners u x) {j : Fin 32} (box : x.box j = u.box j)
    (a : x.live (counterA j) = u.live (counterA j)) (b : x.live (counterB j) = u.live (counterB j))
    (c : x.live (counterC j) = u.live (counterC j)) :
    u.matchedAt f (u.active.profile.selfFeed = true) j (x.fed f) := by
  by_cases fed : u.active.profile.selfFeed = true
  · rw [h.fed_on fed]
    exact matchedAt_of_walks fed (offerToMatch_walks f x) h.active box a b c
  · rw [h.fed_off fed]
    exact matchedAt_none fed box a b c

theorem Outcome.matchMarks (h : Outcome f owners u x) :
    u.matchMarks f (u.active.profile.selfFeed = true) (x.fed f) := by
  by_cases fed : u.active.profile.selfFeed = true
  · rw [h.fed_on fed]
    exact matchMarks_of_walks fed (offerToMatch_walks f x) h.active h.box h.engine (by rw [h.notices])
  · rw [h.fed_off fed]
    exact matchMarks_none fed h.engine (by rw [h.notices])

theorem Outcome.conditionEvent (h : Outcome f owners u x) : u.conditionEvent owners .attention
    (u.matchAttends f (u.active.profile.selfFeed = true)) (x.fed f) := by
  by_cases fed : u.active.profile.selfFeed = true
  · rw [h.fed_on fed]
    exact conditionEvent_of_walks fed (offerToMatch_walks f x) h.active h.box h.placed h.reports h.flight
      (fun _ => h.stamps) h.notices
  · rw [h.fed_off fed]
    exact conditionEvent_none (fun attends => fed attends.2.1) h.placed (by rw [h.notices])

end

theorem fed_live_high (f : Frame) (s : State) {k : Fin 111} (hk : 96 ≤ k.val) : (s.fed f).live k = s.live k := by
  unfold State.fed
  split
  · exact (offerToMatch_walks f s).high k hk
  · rfl

/-- A mailbox that does not take the frame keeps everything. -/
theorem fed_other {f : Frame} {m : Fin 32} {s : State} (h : ¬ s.takesFrame f m) :
    (s.fed f).box m = s.box m ∧ (s.fed f).live (counterA m) = s.live (counterA m) ∧
      (s.fed f).live (counterB m) = s.live (counterB m) ∧ (s.fed f).live (counterC m) = s.live (counterC m) := by
  unfold State.fed
  split
  · obtain ⟨box, a, b⟩ := (offerToMatch_walks f s).other m h
    exact ⟨box, a, b, (offerToMatch_walks f s).c m⟩
  · exact ⟨rfl, rfl, rfl, rfl⟩

/-- All that the self-feed of a frame can change. -/
theorem fed_eq (f : Frame) (s : State) : s.fed f = { s with
    boxes := (s.fed f).boxes
    tx := { s.tx with queued := (s.fed f).tx.queued }
    engine := (s.fed f).engine
    notices := { s.notices with
      latched := (s.fed f).notices.latched, deferred := (s.fed f).notices.deferred
      repeatCount := (s.fed f).notices.repeatCount, attention := (s.fed f).notices.attention }
    counters := { s.counters with live := (s.fed f).counters.live } } := by
  unfold State.fed
  split
  · exact offerToMatch_eq f s
  · rfl

/-- A REPORT mailbox takes no frame (02, R20). -/
theorem not_takesFrame_of_report {s : State} {m : Fin 32} (h : (s.config m).kind = .report) (f : Frame) :
    ¬ s.takesFrame f m := by
  rintro ⟨takes, -⟩
  simp [MailboxConfig.takes, h] at takes

/-! ### The completion of an attempt -/

/-- The part as an attempt has completed and its run of errors has ended, the entry's outcome still to come (07, R119). -/
def State.attemptDone (u : State) : State := { u with bus := { u.bus with line := .idle, flight := none, errors := 0 } }

/-- A COMPLETION of an attempt that is under way and in time. -/
theorem exec_completion {time : Nat} {e : Entry} {f : Frame} {s : State} (ht : s.inTime (16 * time))
    (hf : (s.found (16 * time)).bus.flight = some (.attempt e f)) :
    exec (.completion time) s = .next (((s.found (16 * time)).attemptDone.completeEntry e).selfFeed e f) := by
  have effect : (s.found (16 * time)).completeAttempt =
      ((s.found (16 * time)).attemptDone.completeEntry e).selfFeed e f := by
    simp only [State.completeAttempt, hf]
    rfl
  have under : (s.ripe (16 * time)).attempting = true := by
    have hbus : (s.found (16 * time)).bus = (s.ripe (16 * time)).bus := by simp
    simp only [State.attempting, State.inFlight, ← hbus, hf, Option.isSome_some]
  rw [← effect]
  exact congrArg _ (atTime_of_occurs ht under)

theorem completeEntry_of_current {e : Entry} {m : Fin 32} {s : State} (h : e.owner = .report m (s.box m).generation) :
    s.completeEntry e = s.completeReport m := by
  simp only [State.completeEntry, h, if_true]

/-! ### A report of the current generation -/

/-- What the completion of its report makes of a mailbox (05, R88). -/
def Runtime.reported (b : Runtime) : Runtime := { b with
  state := if b.again then .pending else .quiet
  lastSent := b.captured.getD b.lastSent
  age := 0
  captured := none }

/-- The mailbox and its counter 3m after the completion, a new entry still to come (05, R88). -/
def State.reported (m : Fin 32) (s : State) : State := (s.setBox m (s.box m).reported).count (counterA m)

theorem completeReport_eq (m : Fin 32) (s : State) : s.completeReport m =
    if (s.box m).again = true then (s.reported m).placeReport m else s.reported m := by
  have leaves (b : Runtime) : ((s.setBox m b).count (counterA m)).setBox m (s.box m).reported = s.reported m :=
    congrArg (State.count (counterA m)) (setBox_setBox m b _ s)
  have box (b : Runtime) : ((s.setBox m b).count (counterA m)).box m = b := setBox_box_self m b s
  unfold State.completeReport State.reportLeaves
  simp only [box]
  split
  · rename_i again
    rw [← leaves, Runtime.reported, if_pos again]
  · rename_i again
    rw [← leaves, Runtime.reported, if_neg again]

/-- The owners of the entries that the completion of its report places for mailbox m (05, R88). -/
def State.reportsAgain (m : Fin 32) (s : State) : List Owner :=
  if (s.box m).again = true then [.report m (s.box m).generation] else []

theorem reported_box (m : Fin 32) (s : State) : (s.reported m).box m = (s.box m).reported :=
  setBox_box_self m _ s

theorem reported_box_other {m j : Fin 32} (hj : j ≠ m) (s : State) : (s.reported m).box j = s.box j :=
  setBox_box_other hj _ s

/-- All that the completion of a report can change; a new entry is all that the again flag adds to it. -/
theorem completeReport_frame_eq (m : Fin 32) (s : State) : s.completeReport m = { s with
    boxes := (s.reported m).boxes
    tx := { s.tx with queued := (s.completeReport m).tx.queued }
    counters := (s.count (counterA m)).counters } := by
  rw [completeReport_eq]
  split <;> rfl

theorem completeReport_box_self (m : Fin 32) (s : State) : (s.completeReport m).box m = (s.box m).reported := by
  rw [← reported_box m s, box_congr]
  rw [completeReport_frame_eq]

theorem completeReport_box_other {m j : Fin 32} (hj : j ≠ m) (s : State) : (s.completeReport m).box j = s.box j := by
  rw [← reported_box_other hj s, box_congr]
  rw [completeReport_frame_eq]

theorem completeReport_live (m : Fin 32) (k : Fin 111) (s : State) :
    (s.completeReport m).live k = (s.count (counterA m)).live k := by
  rw [completeReport_frame_eq]
  rfl

theorem completeReport_live_other {m : Fin 32} {k : Fin 111} (hk : k ≠ counterA m) (s : State) :
    (s.completeReport m).live k = s.live k :=
  (completeReport_live m k s).trans (count_live_other hk s)

theorem completeReport_placed {m : Fin 32} {s : State} (hs : ∀ e ∈ s.tx.queued, e.stamp < s.tx.epoch * 64) :
    s.placedInOrder (s.reportsAgain m) (s.completeReport m) := by
  rw [completeReport_eq, State.reportsAgain]
  split
  · have generation : ((s.reported m).box m).generation = (s.box m).generation := by
      rw [reported_box, Runtime.reported]
    rw [State.placeReport, generation]
    exact placedInOrder_one rfl hs
  · exact (placedInOrder_nil s _).mpr rfl

/-- A report ranks ahead of the notice of its event (06, R98). -/
theorem completeReport_stamps {m : Fin 32} {s : State} (hs : ∀ e ∈ s.tx.queued, e.stamp < s.tx.epoch * 64) :
    ∀ e ∈ (s.completeReport m).tx.queued, e.stamp < (s.completeReport m).tx.epoch * 64 + 40 := by
  have queued (e : Entry) (he : e ∈ s.tx.queued) : e.stamp < s.tx.epoch * 64 + 40 := Nat.lt_add_right 40 (hs e he)
  rw [completeReport_eq]
  split
  · intro e he
    rcases mem_insertEntry.mp he with rfl | he
    · exact Nat.add_lt_add_left (show 8 + m.val < 40 by omega) _
    · exact queued e he
  · exact queued

/-- The completion of a report is an outcome a self-feed can follow (02, R19; 05, R88). -/
theorem completeReport_outcome {m : Fin 32} {e : Entry} {f : Frame} {u : State}
    (hf : u.bus.flight = some (.attempt e f)) (ho : e.owner = .report m (u.box m).generation)
    (hk : (u.config m).kind = .report) (hs : ∀ e ∈ u.tx.queued, e.stamp < u.tx.epoch * 64) :
    Outcome f (u.reportsAgain m) u (u.attemptDone.completeReport m) where
  active := by simp [State.attemptDone]
  engine := by simp [State.attemptDone]
  notices := by simp [State.attemptDone]
  box j hj := by
    have other : j ≠ m := fun h => not_takesFrame_of_report hk f (h ▸ hj)
    exact completeReport_box_other other u.attemptDone
  placed := completeReport_placed (s := u.attemptDone) hs
  reports o h := by
    unfold State.reportsAgain at h
    split at h
    · rw [List.mem_singleton.mp h]
      rfl
    · exact absurd h List.not_mem_nil
  flight := by
    have done : (u.attemptDone.completeReport m).inFlight = none := by simp [State.inFlight, State.attemptDone]
    have report : u.inFlight = some e := by simp only [State.inFlight, hf]
    simp [State.hasInFlight, done, report, ho, Owner.isNotice]
  stamps := completeReport_stamps (s := u.attemptDone) hs

/-- Settles O17: the queue takes the completion, then the frame is fed back. -/
theorem reportCompletes : Obligations.ReportCompletes := by
  intro time m e f s ht u fed hf ho hk hq
  have outcome := completeReport_outcome hf ho hk (found_stamps hq)
  have completes : exec (.completion time) s = .next ((u.attemptDone.completeReport m).fed f) := by
    rw [exec_completion ht hf, selfFeed_of_report ho, completeEntry_of_current (s := u.attemptDone) ho]
  obtain ⟨box, a, b, c⟩ := fed_other (s := u.attemptDone.completeReport m) (f := f) (m := m)
    (by rw [takesFrame_congr outcome.active]; exact not_takesFrame_of_report hk f)
  have own (k : Fin 111) (hk : k ≠ counterA m) := completeReport_live_other hk u.attemptDone
  refine ⟨_, completes, ?_, ?_, ?_, ?_, fun k hk => ?_, fun j hj => ?_, outcome.matchMarks, outcome.conditionEvent, ?_⟩
  · rw [box, completeReport_box_self]
    rfl
  · rw [a, completeReport_live, count_live_self]
    rfl
  · rw [b]
    exact own _ (counterB_ne_counterA m m)
  · rw [c]
    exact own _ (counterC_ne_counterA m m)
  · rw [fed_live_high f _ hk]
    exact own k (ne_counterA_of_le hk m)
  · exact outcome.matchedAt (completeReport_box_other hj _) (own _ (counterA_ne_counterA hj))
      (own _ (counterB_ne_counterA j m)) (own _ (counterC_ne_counterA j m))
  · have frame := fed_eq f (u.attemptDone.completeReport m)
    generalize (u.attemptDone.completeReport m).fed f = t at frame ⊢
    rw [completeReport_frame_eq] at frame
    exact frame

end Sys2Proof.Machine
end

section
/-! The transmit queue through every step (06, R96, R98, R103). What the operations of a step do to the queue and to the entry
in flight is said once, as moves; the laws of the queue are laws that every move keeps. -/

namespace Sys2Proof.Machine

/-- The moves of the transmit queue and of the entry in flight. -/
inductive QueueMoves : State → State → Prop
  /-- Entries leave the queue or the bus, and events begin. -/
  | leave {s t : State} : t.tx.queued.Sublist s.tx.queued → (t.inFlight = s.inFlight ∨ t.inFlight = none) →
      s.tx.epoch ≤ t.tx.epoch → QueueMoves s t
  /-- An entry is placed; a NOTICE or DISCOVERY entry only while there is none (06, R98; 08, R133; 10, R176). -/
  | place {s : State} {o : Owner} :
      (o.isNotice = true → s.hasQueued Owner.isNotice = false ∧ s.hasInFlight Owner.isNotice = false) →
      (o.isDiscovery = true → s.hasQueued Owner.isDiscovery = false ∧ s.hasInFlight Owner.isDiscovery = false) →
      QueueMoves s (s.place o)
  /-- A queued entry starts (06, R102). -/
  | start {s t : State} {e : Entry} : e ∈ s.tx.queued → s.inFlight = none → t.inFlight = some e →
      t.tx.queued = s.tx.queued.filter (fun x => !decide (x = e)) → t.tx.epoch = s.tx.epoch → QueueMoves s t
  /-- The entry in flight goes back to the position of its stamp (06, R103). -/
  | back {s t : State} {e e' : Entry} : s.inFlight = some e → e'.owner = e.owner → e'.stamp = e.stamp →
      t.inFlight = none → t.tx.queued = insertEntry e' s.tx.queued → t.tx.epoch = s.tx.epoch → QueueMoves s t
  /-- A reset (06, R110). -/
  | reset {s t : State} : t.tx = TransmitQueue.reset → t.inFlight = none → QueueMoves s t
  | trans {s t u : State} : QueueMoves s t → QueueMoves t u → QueueMoves s u

/-! ### The laws are kept by every move -/

theorem place_queueLaw {s : State} (hs : s.queueLaw) (o : Owner) : (s.place o).queueLaw := by
  obtain ⟨queued, flying, sorted⟩ := hs
  refine ⟨fun x hx => ?_, flying, insertEntry_pairwise sorted⟩
  rw [place_epoch]
  rcases mem_insertEntry.mp hx with rfl | hx
  · have := o.rank_lt s.tx.placed
    dsimp only
    omega
  · exact queued x hx

theorem queueLaw_of_moves {s t : State} (h : QueueMoves s t) : s.queueLaw → t.queueLaw := by
  induction h with
  | leave rest flight epoch =>
    rintro ⟨queued, flying, sorted⟩
    refine ⟨fun x hx => ?_, fun x hx => ?_, sorted.sublist rest⟩
    · have := queued x (rest.subset hx)
      omega
    · rcases flight with flight | flight
      · have := flying x (flight ▸ hx)
        omega
      · simp [flight] at hx
  | place _ _ => exact fun hs => place_queueLaw hs _
  | start mem _ flight queue epoch =>
    rintro ⟨queued, flying, sorted⟩
    rw [State.queueLaw, flight, queue, epoch]
    refine ⟨fun x hx => queued x (List.mem_of_mem_filter hx), fun x hx => ?_, sorted.sublist List.filter_sublist⟩
    rw [← Option.mem_some_iff.mp hx]
    exact queued _ mem
  | back flight owner stamp landed queue epoch =>
    rintro ⟨queued, flying, sorted⟩
    rw [State.queueLaw, landed, queue, epoch]
    refine ⟨fun x hx => ?_, fun x hx => by simp at hx, insertEntry_pairwise sorted⟩
    rcases mem_insertEntry.mp hx with rfl | hx
    · exact stamp ▸ flying _ flight
    · exact queued x hx
  | reset tx landed =>
    intro _
    rw [State.queueLaw, landed, tx]
    simp [TransmitQueue.reset]
  | trans _ _ ih₁ ih₂ => exact fun hs => ih₂ (ih₁ hs)

/-- How many entries of a kind there are, queued or in flight. -/
def State.countEntries (p : Owner → Bool) (s : State) : Nat :=
  (s.tx.queued ++ s.inFlight.toList).countP (fun e => p e.owner)

theorem countEntries_eq (p : Owner → Bool) (s : State) : s.countEntries p =
    s.tx.queued.countP (fun e => p e.owner) + s.inFlight.toList.countP (fun e => p e.owner) :=
  List.countP_append

theorem countEntries_eq_zero {p : Owner → Bool} {s : State} (hq : s.hasQueued p = false) (hf : s.hasInFlight p = false) :
    s.countEntries p = 0 := by
  rw [State.countEntries, List.countP_eq_zero]
  intro e he
  rcases List.mem_append.mp he with he | he
  · exact List.any_eq_false.mp hq e he
  · simpa [State.hasInFlight, Option.mem_toList.mp he] using hf

theorem place_countEntries (p : Owner → Bool) (o : Owner) (s : State) :
    (s.place o).countEntries p = s.countEntries p + if p o then 1 else 0 := by
  have flight : (s.place o).inFlight = s.inFlight := rfl
  rw [countEntries_eq, countEntries_eq, place_queued, countP_insertEntry, flight]
  dsimp only
  omega

/-- An entry that starts is counted in flight, and no longer in the queue. -/
theorem countP_filter_ne {l : List Entry} {e : Entry} (h : e ∈ l) (p : Entry → Bool) :
    (l.filter (fun x => !decide (x = e))).countP p + (if p e then 1 else 0) ≤ l.countP p := by
  have leaves : (if p e then 1 else 0) ≤ (l.filter (fun x => !!decide (x = e))).countP p := by
    split
    · rename_i hp
      exact List.countP_pos_iff.mpr ⟨e, List.mem_filter.mpr ⟨h, by simp⟩, hp⟩
    · exact Nat.zero_le _
  have parts := List.countP_eq_countP_filter_add l p (fun x => !decide (x = e))
  omega

/-- A move that is no placement adds no entry of a kind, and a placement only where there was none. -/
theorem countEntries_of_moves {p : Owner → Bool} (single : p = Owner.isNotice ∨ p = Owner.isDiscovery) {s t : State}
    (h : QueueMoves s t) : s.countEntries p ≤ 1 → t.countEntries p ≤ 1 := by
  induction h with
  | leave rest flight _ =>
    intro hs
    rw [countEntries_eq] at hs ⊢
    have := rest.countP_le (p := fun e => p e.owner)
    rcases flight with flight | flight
    · rw [flight]
      omega
    · rw [flight]
      simp only [Option.toList_none, List.countP_nil]
      omega
  | @place s o notice discovery =>
    intro hs
    rw [place_countEntries]
    split
    · rename_i ho
      have absent : s.countEntries p = 0 := by
        rcases single with rfl | rfl
        · exact countEntries_eq_zero (notice ho).1 (notice ho).2
        · exact countEntries_eq_zero (discovery ho).1 (discovery ho).2
      omega
    · exact hs
  | @start s t e mem idle flight queue _ =>
    intro hs
    have := countP_filter_ne mem (fun e => p e.owner)
    rw [countEntries_eq, idle] at hs
    rw [countEntries_eq, flight, queue]
    simp only [Option.toList_some, Option.toList_none, List.countP_singleton, List.countP_nil] at hs ⊢
    omega
  | back flight owner _ landed queue _ =>
    intro hs
    rw [countEntries_eq, flight] at hs
    rw [countEntries_eq, landed, queue, countP_insertEntry, owner]
    simpa using hs
  | reset tx landed =>
    intro _
    rw [countEntries_eq, landed, tx]
    rcases single with rfl | rfl <;> decide
  | trans _ _ ih₁ ih₂ => exact fun hs => ih₂ (ih₁ hs)

theorem singleLaw_of_moves {s t : State} (h : QueueMoves s t) : s.singleLaw → t.singleLaw := by
  rintro ⟨notice, discovery⟩
  exact ⟨countEntries_of_moves (.inl rfl) h notice, countEntries_of_moves (.inr rfl) h discovery⟩

namespace QueueMoves

variable {s t u : State}

theorem refl (s : State) : QueueMoves s s := .leave (List.Sublist.refl _) (.inl rfl) (Nat.le_refl _)

/-- What touches neither the queue nor the bus. -/
theorem still (h : QueueMoves s t) (tx : u.tx = t.tx) (bus : u.bus.flight = t.bus.flight) : QueueMoves s u :=
  h.trans (.leave (by rw [tx]) (.inl (inFlight_congr bus)) (by rw [tx]))

/-- The reply entries are no part of the queue. -/
theorem setReply (h : QueueMoves s t) (k : Fin 4) (r : ReplyEntry) : QueueMoves s (t.setReply k r) :=
  h.trans (.leave (List.Sublist.refl _) (.inl rfl) (Nat.le_refl _))

theorem newEvent (h : QueueMoves s t) : QueueMoves s t.newEvent :=
  h.trans (.leave (List.Sublist.refl _) (.inl rfl) (Nat.le_succ _))

theorem dropQueued (h : QueueMoves s t) (p : Owner → Bool) : QueueMoves s (t.dropQueued p) :=
  h.trans (.leave List.filter_sublist (.inl rfl) (Nat.le_refl _))

theorem endAttempt (h : QueueMoves s t) (line : LineActivity) : QueueMoves s (t.endAttempt line) :=
  h.trans (.leave (List.Sublist.refl _) (.inr rfl) (Nat.le_refl _))

theorem foldl {α : Type} {g : State → α → State} (hg : ∀ x a, QueueMoves s x → QueueMoves s (g x a)) (l : List α) :
    ∀ {t}, QueueMoves s t → QueueMoves s (l.foldl g t) := by
  induction l with
  | nil => exact fun h => h
  | cons a l ih => exact fun h => ih (hg _ a h)

/-! ### Placements -/

theorem placeReport (h : QueueMoves s t) (m : Fin 32) : QueueMoves s (t.placeReport m) :=
  h.trans (.place nofun nofun)

theorem placeReply (h : QueueMoves s t) (k : Fin 4) (c : Reply) : QueueMoves s (t.placeReply k c) :=
  (h.setReply k _).trans (.place nofun nofun)

theorem offer (h : QueueMoves s t) : QueueMoves s t.offer := by
  unfold State.offer
  split
  · exact h.still rfl rfl
  · rename_i flying
    split
    · exact h
    · rename_i queued
      have absent : t.hasQueued Owner.isNotice = false ∧ t.hasInFlight Owner.isNotice = false :=
        ⟨Bool.eq_false_iff.mpr queued, Bool.eq_false_iff.mpr flying⟩
      exact still (h.trans (.place (o := .notice) (fun _ => absent) nofun)) rfl rfl

theorem latch (h : QueueMoves s t) (c : Condition) : QueueMoves s (t.latch c) := by
  unfold State.latch
  dsimp only
  split
  · exact h
  · split
    · exact offer (h.still rfl rfl)
    · exact h.still rfl rfl

theorem markAttention (h : QueueMoves s t) (m : Fin 32) : QueueMoves s (t.markAttention m) := by
  rw [markAttention_eq]
  split
  · split
    · refine latch ?_ _
      exact h.still rfl rfl
    · exact h.still rfl rfl
  · exact h

theorem noticeLeaves (h : QueueMoves s t) : QueueMoves s t.noticeLeaves := by
  unfold State.noticeLeaves
  split
  · exact offer (h.still rfl rfl)
  · exact h

theorem takeSnapshot (h : QueueMoves s t) : QueueMoves s t.takeSnapshot := by
  refine latch ?_ _
  exact h.still rfl rfl

/-! ### Mailboxes -/

theorem store (h : QueueMoves s t) (f : Frame) (m : Fin 32) : QueueMoves s (t.store f m) := by
  unfold State.store
  dsimp only
  split
  · exact markAttention (h.still (by simp) (by simp)) m
  · exact h.still (by simp) (by simp)

theorem walk (f : Frame) (l : List (Fin 32)) : ∀ {t}, QueueMoves s t → QueueMoves s (t.walk f l) := by
  induction l with
  | nil => exact fun h => h
  | cons m l ih =>
    intro t h
    unfold State.walk
    split
    · split
      · exact ih (h.store f m)
      · exact h.store f m
    · exact ih h

theorem offerToMatch (h : QueueMoves s t) (f : Frame) : QueueMoves s (t.offerToMatch f) := walk f allBoxes h

theorem ageFeed (h : QueueMoves s t) (m : Fin 32) : QueueMoves s (t.ageFeed m) := by
  unfold State.ageFeed
  dsimp only
  split
  · split
    · refine markAttention ?_ m
      exact h.still rfl rfl
    · exact h.still rfl rfl
  · exact h

theorem trigger (h : QueueMoves s t) (m : Fin 32) : QueueMoves s (t.trigger m) := by
  rw [trigger_eq]
  split
  · exact (h.placeReport m).still rfl rfl
  · exact h.still rfl rfl

theorem testChange (h : QueueMoves s t) (m : Fin 32) (previous : SlotClass) : QueueMoves s (t.testChange m previous) := by
  have tried : QueueMoves s (if triggers (t.config m) (t.box m) previous = true then t.trigger m else t) := by
    split
    · exact h.trigger m
    · exact h
  rw [testChange_eq]
  dsimp only
  split
  · exact tried.markAttention m
  · exact tried

theorem slotArrives (h : QueueMoves s t) (m : Fin 32) (slot : SlotBytes) : QueueMoves s (t.slotArrives m slot) :=
  testChange (h.still (u := t.handed m slot) (by simp) (by simp)) m _

theorem giveClassLost (h : QueueMoves s t) : QueueMoves s t.giveClassLost := by
  refine foldl (fun x m hx => ?_) _ h
  split
  · refine testChange ?_ m _
    exact hx.still rfl rfl
  · exact hx

theorem ageReport (h : QueueMoves s t) (m : Fin 32) : QueueMoves s (t.ageReport m) := by
  unfold State.ageReport
  dsimp only
  split
  · split
    · refine trigger ?_ m
      exact h.still rfl rfl
    · exact h.still rfl rfl
  · exact h

/-! ### Selection and start -/

theorem replyLeaves (h : QueueMoves s t) (k : Fin 4) : QueueMoves s (t.replyLeaves k) := by
  unfold State.replyLeaves
  dsimp only
  split
  · exact (h.setReply k _).still rfl rfl
  · exact h.setReply k _

theorem loseReply (h : QueueMoves s t) (o : Owner) : QueueMoves s (t.loseReply o) := by
  cases o with
  | reply k =>
    refine replyLeaves ?_ k
    exact h.still rfl rfl
  | report _ _ | notice | discovery => exact h

theorem discard (h : QueueMoves s t) : QueueMoves s t.discard := by
  unfold State.discard
  split
  · exact foldl (fun x o hx => hx.loseReply o) _ (h.dropQueued _)
  · split
    · exact h.dropQueued _
    · exact h

end QueueMoves

/-- The queue policy chooses among the queued entries (06, R101). -/
theorem lowest_mem (s : State) (e : Entry) (l : List Entry) : s.lowest e l ∈ e :: l := by
  induction l generalizing e with
  | nil => exact List.mem_singleton.mpr rfl
  | cons x l ih =>
    unfold State.lowest
    rcases List.mem_cons.mp (ih (if s.identifier x.owner < s.identifier e.owner then x else e)) with h | h
    · rw [h]
      split
      · exact List.mem_cons_of_mem _ List.mem_cons_self
      · exact List.mem_cons_self
    · exact List.mem_cons_of_mem _ (List.mem_cons_of_mem _ h)

theorem choose_mem {s : State} {e : Entry} (h : s.choose = some e) : e ∈ s.tx.queued := by
  unfold State.choose at h
  split at h
  · cases h
  · rename_i x l queued
    rw [queued]
    split at h
    · cases h
      exact lowest_mem s x l
    · cases h
      exact List.mem_cons_self

theorem start_inFlight (e : Entry) (s : State) : (s.start e).inFlight = some e := rfl

theorem ownerStarts_queued (o : Owner) (s : State) : (s.ownerStarts o).tx.queued = s.tx.queued := by
  cases o <;> rfl

theorem ownerStarts_epoch (o : Owner) (s : State) : (s.ownerStarts o).tx.epoch = s.tx.epoch := by
  cases o <;> rfl

theorem start_queued (e : Entry) (s : State) :
    (s.start e).tx.queued = s.tx.queued.filter (fun x => !decide (x = e)) := by
  rw [← ownerStarts_queued e.owner s]
  rfl

theorem start_epoch (e : Entry) (s : State) : (s.start e).tx.epoch = s.tx.epoch :=
  ownerStarts_epoch e.owner s

theorem canSelect_iff (s : State) : s.canSelect = true ↔ s.held = false ∧ s.bus.port = .active ∧ s.bus.line = .idle ∧
    s.bus.flight = none ∧ s.bus.unheard = false ∧ s.tx.queued ≠ [] := by
  simp [State.canSelect, and_assoc]

namespace QueueMoves

variable {s t u : State}

theorem select (h : QueueMoves s t) (idle : t.inFlight = none) : QueueMoves s t.select := by
  have discarded := h.discard
  have idle' : t.discard.inFlight = none := (inFlight_congr (by simp)).trans idle
  unfold State.select
  dsimp only
  split
  · exact discarded
  · rename_i e chosen
    exact discarded.trans (.start (choose_mem chosen) idle' (start_inFlight e _) (start_queued e _) (start_epoch e _))

/-! ### Outcomes -/

theorem retire (h : QueueMoves s t) (m : Fin 32) : QueueMoves s (t.retire m) := by
  unfold State.retire
  split
  · exact h.placeReport m
  · exact h

theorem reportLeaves (h : QueueMoves s t) (m : Fin 32) : QueueMoves s (t.reportLeaves m) := by
  unfold State.reportLeaves
  dsimp only
  split
  · refine placeReport ?_ m
    exact h.still rfl rfl
  · exact h.still rfl rfl

theorem completeReport (h : QueueMoves s t) (m : Fin 32) : QueueMoves s (t.completeReport m) := by
  refine reportLeaves ?_ m
  exact h.still rfl rfl

theorem abandonReport (h : QueueMoves s t) (m : Fin 32) : QueueMoves s (t.abandonReport m) := by
  refine reportLeaves (markAttention ?_ m) m
  exact h.still rfl rfl

theorem abandonEntry (h : QueueMoves s t) (e : Entry) : QueueMoves s (t.abandonEntry e) := by
  have told : QueueMoves s ((t.count Counter.abandons).latch .txAbandon) :=
    (h.still (u := t.count Counter.abandons) rfl rfl).latch _
  unfold State.abandonEntry
  dsimp only
  split
  · split
    · exact told.abandonReport _
    · exact told.retire _
  · refine replyLeaves ?_ _
    exact told.still rfl rfl
  · exact told.noticeLeaves
  · exact told

theorem completeEntry (h : QueueMoves s t) (e : Entry) : QueueMoves s (t.completeEntry e) := by
  unfold State.completeEntry
  split
  · split
    · exact h.completeReport _
    · exact h.retire _
  · exact h.replyLeaves _
  · refine noticeLeaves ?_
    exact h.still rfl rfl
  · exact h

theorem selfFeed (h : QueueMoves s t) (e : Entry) (f : Frame) : QueueMoves s (t.selfFeed e f) := by
  unfold State.selfFeed
  split
  · split
    · exact h.offerToMatch f
    · exact h
  all_goals exact h

/-- The entry of an attempt that has ended without success goes back, or is retired (06, R103, R108): `t` is the part as the
attempt has ended, `x` as it was under way. -/
theorem returnEntry {x : State} {e e' : Entry} (h : QueueMoves s x) (flight : x.inFlight = some e)
    (owner : e'.owner = e.owner) (stamp : e'.stamp = e.stamp) (tx : t.tx = x.tx) (ended : t.bus.flight = none) :
    QueueMoves s (t.returnEntry e') := by
  have landed : t.inFlight = none := by simp only [State.inFlight, ended]
  have back {y : State} (queued : y.tx.queued = x.tx.queued) (epoch : y.tx.epoch = x.tx.epoch) (bus : y.bus = t.bus) :
      QueueMoves s (y.requeue e') :=
    h.trans (.back flight owner stamp ((inFlight_congr (by rw [← bus]; rfl)).trans landed)
      (congrArg (insertEntry e') queued) epoch)
  unfold State.returnEntry
  split
  · split
    · exact back (congrArg TransmitQueue.queued tx) (congrArg TransmitQueue.epoch tx) rfl
    · exact retire (h.trans (.leave (by rw [tx]) (.inr landed) (by rw [tx]))) _
  · exact back ((markReply_queued _ _ t).trans (congrArg TransmitQueue.queued tx))
      ((markReply_epoch _ _ t).trans (congrArg TransmitQueue.epoch tx)) rfl
  all_goals exact back (congrArg TransmitQueue.queued tx) (congrArg TransmitQueue.epoch tx) rfl

theorem loseArbitration (h : QueueMoves s t) : QueueMoves s t.loseArbitration := by
  unfold State.loseArbitration
  split
  · rename_i e flight
    exact h.returnEntry flight rfl rfl rfl rfl
  · exact h

theorem enterSilent (h : QueueMoves s t) : QueueMoves s t.enterSilent := by
  refine latch ?_ _
  exact h.still rfl rfl

theorem failAttempt (h : QueueMoves s t) : QueueMoves s t.failAttempt := by
  have taken {e : Entry} {x : State} (flight : t.inFlight = some e) (tx : x.tx = t.tx) (ended : x.bus.flight = none) :
      QueueMoves s (x.errorEntry e) := by
    unfold State.errorEntry
    dsimp only
    split
    · exact h.returnEntry flight rfl rfl tx ended
    · exact abandonEntry (h.trans (.leave (by rw [tx]) (.inr (by simp only [State.inFlight, ended])) (by rw [tx]))) e
  unfold State.failAttempt
  split
  · rename_i e flight
    dsimp only
    have errored := taken (x := (State.count Counter.transmitErrors { t with bus := { t.bus with
      line := .idle, flight := none, errors := t.bus.errors + 1 } })) flight rfl rfl
    split
    · exact errored.enterSilent
    · exact errored
  · exact h

theorem completeAttempt (h : QueueMoves s t) : QueueMoves s t.completeAttempt := by
  unfold State.completeAttempt
  split
  · refine selfFeed (completeEntry ?_ _) _ _
    exact (h.endAttempt .idle).still rfl rfl
  all_goals exact h

end QueueMoves

namespace QueueMoves

variable {s t u : State}

/-! ### The lock and the slots -/

theorem badSlot (h : QueueMoves s t) : QueueMoves s t.badSlot := by
  refine latch ?_ _
  exact h.still rfl rfl

theorem truncate (h : QueueMoves s t) : QueueMoves s t.truncate := by
  have cut : QueueMoves s (t.cutInbound.count Counter.truncated) := h.still (by simp) (by simp)
  unfold State.truncate
  dsimp only
  split
  · exact h
  · split
    · exact cut.badSlot
    · exact cut

theorem loseLock (h : QueueMoves s t) : QueueMoves s t.loseLock := by
  unfold State.loseLock
  dsimp only
  refine giveClassLost (latch ?_ _)
  split <;> exact h.still rfl rfl

theorem missEffect (h : QueueMoves s t) (advance : Bool) (x : Byte) : QueueMoves s (t.missEffect advance x) := by
  unfold State.missEffect
  dsimp only
  split
  · refine loseLock ?_
    exact h.still rfl rfl
  · exact h.still rfl rfl

theorem miss (h : QueueMoves s t) (advance : Bool) (x : Byte) : QueueMoves s (t.miss advance x) := by
  refine missEffect ?_ _ _
  exact h.still rfl rfl

theorem foreignMark (h : QueueMoves s t) (time : Nat) (n : Byte) : QueueMoves s (t.foreignMark time n) := by
  have told : QueueMoves s ((t.latch .ringForeign).count Counter.markMisses) := (h.latch _).still rfl rfl
  unfold State.foreignMark
  dsimp only
  split
  · exact told.missEffect _ _
  all_goals exact told

theorem badMark (h : QueueMoves s t) (time : Nat) : QueueMoves s (t.badMark time) := by
  unfold State.badMark
  split
  · split
    · exact h.miss _ _
    · exact h.miss _ _
  all_goals exact h

theorem windowCloses (h : QueueMoves s t) : QueueMoves s t.windowCloses := by
  refine miss (truncate ?_) _ _
  exact h.still rfl rfl

theorem readSlot (h : QueueMoves s t) (r : InRound) (b : SlotBytes) : QueueMoves s (t.readSlot r b) := by
  unfold State.readSlot
  split
  · split
    · exact h.slotArrives _ b
    · exact h.badSlot
  · exact h

theorem slotEnds (h : QueueMoves s t) (b : SlotBytes) : QueueMoves s (t.slotEnds b) := by
  unfold State.slotEnds
  dsimp only
  split
  · exact h
  · split
    · refine readSlot ?_ _ b
      exact h.still (by simp) (by simp)
    · exact h

/-! ### The works and the steps of a boundary -/

theorem resetChanged (h : QueueMoves s t) (m : Fin 32) : QueueMoves s (t.resetChanged m) := by
  unfold State.resetChanged
  dsimp only
  have dropped : QueueMoves s (State.dropQueued (Owner.isReportOf m)
      ((((t.setBox m { Runtime.reset with generation := (t.box m).generation + 1 }).zeroLive (counterA m)).zeroLive
        (counterB m)).zeroLive (counterC m) |>.clearAttention m)) := by
    refine dropQueued ?_ _
    exact h.still rfl rfl
  split
  · exact dropped.still rfl rfl
  · exact dropped

theorem resetAllChanged (h : QueueMoves s t) (old new : Image) : QueueMoves s (t.resetAllChanged old new) := by
  refine foldl (fun x m hx => ?_) _ h
  split
  · exact hx.resetChanged m
  · exact hx

theorem endLock (h : QueueMoves s t) : QueueMoves s t.endLock := by
  unfold State.endLock
  split
  · refine giveClassLost (latch ?_ _)
    exact h.still rfl rfl
  all_goals exact h.still rfl rfl

theorem changeRole (h : QueueMoves s t) (old new : RingRole) : QueueMoves s (t.changeRole old new) := by
  have ended {x : State} (hx : QueueMoves s x) : QueueMoves s x.endLock.startTimer := hx.endLock.still rfl rfl
  unfold State.changeRole
  split
  · refine ended ?_
    exact h.still rfl rfl
  · refine ended ?_
    exact h.still rfl rfl
  · exact h.still rfl rfl
  · exact h

theorem swapPending (h : QueueMoves s t) (n : Byte) : QueueMoves s (t.swapPending n) := by
  unfold State.swapPending
  split
  · unfold State.swapCommit
    dsimp only
    refine changeRole (latch (placeReply ?_ _ _) _) _ _
    refine still (t := State.resetAllChanged t.active t.staging { t with active := t.staging }) ?_ ?_ ?_
    · refine resetAllChanged ?_ _ _
      exact h.still rfl rfl
    · simp [State.closeSession]
    · simp [State.closeSession]
  · exact h

theorem performDue (h : QueueMoves s t) (d : DueStep) (n : Byte) : QueueMoves s (t.performDue d n) := by
  cases d with
  | swap => exact h.swapPending n
  | sessionExpiry =>
    refine latch ?_ _
    exact h.still rfl rfl
  | snapshotExpiry => exact h.takeSnapshot
  | repeatExpiry => exact h.offer.still rfl rfl

theorem work (h : QueueMoves s t) (w : BoundaryWork) : QueueMoves s (t.work w).1 := by
  cases w with
  | feedAgeing =>
    rw [work_feedAgeing]
    exact foldl (fun _ m hx => hx.ageFeed m) allBoxes h
  | reportAgeing =>
    rw [work_reportAgeing]
    exact foldl (fun _ m hx => hx.ageReport m) allBoxes h
  | session =>
    simp only [State.work, State.sessionWork]
    split
    · exact h
    · split
      · exact h
      · exact h.still rfl rfl
  | snapshotCount => exact h.still (by simp [State.work]) (by simp)
  | noticeRepeat => exact h.still (by simp [State.work]) (by simp)

end QueueMoves

/-- A boundary's works and steps are moves of the queue. -/
theorem queueMoves_keptByBoundary (s : State) : KeptByBoundary (QueueMoves s) where
  current _ _ h := h.still rfl rfl
  close _ _ h := h.still (by simp) (by simp)
  work w _ h := h.work w
  wait w _ _ h _ := (h.work w).still rfl rfl
  within w d n _ h _ := (h.work w).performDue d n
  due b x h _ := QueueMoves.performDue (h.still (u := { x with boundary := none }) rfl rfl) b.due b.number

namespace QueueMoves

variable {s t u : State}

/-! ### Marks and expiries -/

theorem raiseBoundary (h : QueueMoves s t) (n : Byte) (cause : BoundaryCause) (order : BoundaryOrder) :
    QueueMoves s (t.raiseBoundary n cause order) :=
  (queueMoves_keptByBoundary s).raiseBoundary n cause order t h

theorem acceptMark (h : QueueMoves s t) (time : Nat) (m : RoundMark) (order : BoundaryOrder) :
    QueueMoves s (t.acceptMark time m order) := by
  unfold State.acceptMark
  dsimp only
  split
  · refine raiseBoundary ?_ _ _ _
    exact h.still rfl rfl
  · exact h.still rfl rfl

theorem enterLocked (h : QueueMoves s t) (period : Nat) : QueueMoves s (t.enterLocked period) := by
  unfold State.enterLocked
  dsimp only
  refine latch ?_ _
  split <;> exact h.still rfl rfl

theorem takeReference (h : QueueMoves s t) (time : Nat) (n : Byte) : QueueMoves s (t.takeReference time n) :=
  h.still rfl rfl

theorem judgeMark (h : QueueMoves s t) (time : Nat) (m : RoundMark) (order : BoundaryOrder) :
    QueueMoves s (t.judgeMark time m order) := by
  unfold State.judgeMark
  cases t.ring.lock with
  | hunt => exact h.takeReference _ _
  | confirm =>
    dsimp only
    split
    · split
      · exact (h.enterLocked _).acceptMark _ _ _
      · exact h.takeReference _ _
    · exact h.takeReference _ _
  | locked =>
    dsimp only
    split
    · split
      · exact h.acceptMark _ _ _
      · exact h.miss _ _
    · exact h.miss _ _

theorem markArrives (h : QueueMoves s t) (time : Nat) (m : RoundMark) (order : BoundaryOrder) :
    QueueMoves s (t.markArrives time m order) := by
  have cut := h.truncate
  unfold State.markArrives
  dsimp only
  split
  · exact h
  · split
    · split
      · split
        · exact cut.judgeMark _ _ _
        · exact cut.foreignMark _ _
      · exact cut.judgeMark _ _ _
    · exact cut.badMark _

theorem masterExpiry (h : QueueMoves s t) (order : BoundaryOrder) : QueueMoves s (t.masterExpiry order) := by
  refine raiseBoundary ?_ _ _ _
  exact h.still (by simp) (by simp)

/-! ### Reception -/

theorem queueRequest (h : QueueMoves s t) (broadcast : Bool) (f : Frame) : QueueMoves s (t.queueRequest broadcast f) := by
  unfold State.queueRequest
  split
  · exact h.still rfl rfl
  · split
    · refine latch ?_ _
      exact h.still rfl rfl
    · exact h.still rfl rfl

theorem leaveSilent (h : QueueMoves s t) : QueueMoves s t.leaveSilent := by
  unfold State.leaveSilent
  split
  · refine latch ?_ _
    exact h.still rfl rfl
  · exact h

theorem countGood (h : QueueMoves s t) : QueueMoves s t.countGood := by
  unfold State.countGood
  dsimp only
  split
  · split
    · refine leaveSilent ?_
      exact h.still rfl rfl
    · exact h.still rfl rfl
  · exact h

theorem classify (h : QueueMoves s t) (f : Frame) : QueueMoves s (t.classify f) := by
  have resumed : QueueMoves s (t.fastPath f) := by
    unfold State.fastPath
    split
    · exact h.leaveSilent
    · exact h
  unfold State.classify
  split
  · exact h.offerToMatch f
  · split
    · exact h.queueRequest _ f
    · split
      · exact resumed.queueRequest _ f
      · exact h

theorem frameEnds (h : QueueMoves s t) (r : Reception) : QueueMoves s (t.frameEnds r) := by
  unfold State.frameEnds
  dsimp only
  split
  · exact h.still rfl rfl
  · split
    · refine classify (countGood ?_) _
      exact h.still (by simp) (by simp)
    · unfold State.receptionError
      dsimp only
      split <;> exact h.still rfl rfl

/-! ### Takes -/

/-- A request answered within its take: its action, then its reply (08, R129). -/
theorem answered {a : Request → State → Answer} {r : Request} (ha : ∀ x, QueueMoves s x → QueueMoves s (a r x).state)
    (h : QueueMoves s t) : QueueMoves s (State.answered a r t) := by
  unfold State.answered
  split
  · exact h
  · exact (ha _ (h.setReply _ _)).placeReply _ _

/-- The action of an edit-class request that leaves the queue to its reply. -/
theorem edit {body : Request → State → Answer} {r : Request} (hb : ∀ x, QueueMoves s x → QueueMoves s (body r x).state)
    (n : Nat) (h : QueueMoves s t) : QueueMoves s (State.edit n body r t).state := by
  have cleared : QueueMoves s t.clearIdle := h.still rfl rfl
  unfold State.edit
  dsimp only
  split
  · split
    · exact cleared
    · split
      · exact cleared
      · exact hb _ cleared
  · exact h

theorem cancel (h : QueueMoves s t) (r : Request) : QueueMoves s (answerCancel r t).state := by
  have cleared : QueueMoves s t.clearIdle := h.still rfl rfl
  unfold answerCancel
  split
  · split
    · dsimp only
      split
      · exact (cleared.placeReply _ _).still rfl rfl
      · exact cleared
    · exact h
  · split <;> exact h

theorem setNoticeEnable (h : QueueMoves s t) (r : Request) : QueueMoves s (answerSetNoticeEnable r t).state := by
  unfold answerSetNoticeEnable
  split
  · exact h
  · split
    · exact h
    · dsimp only
      split
      · exact h.still rfl rfl
      · refine offer ?_
        exact h.still rfl rfl

theorem assign (h : QueueMoves s t) (r : Request) : QueueMoves s (actAssign r t) := by
  have placed {x : State} (c : Reply) (hx : QueueMoves s x) : QueueMoves s (x.placeFreeReply c) := by
    unfold State.placeFreeReply
    split
    · exact hx.placeReply _ c
    · exact hx.still rfl rfl
  unfold actAssign
  dsimp only
  split
  · split
    · exact h.still rfl rfl
    · have answered := placed { code := 0x03, tag := 0, result := .ok, data := [] }
        (h.still (u := { t with engine := { t.engine with node := r.tag.setWidth 6 } }) rfl rfl)
      split
      · exact answered.offer
      · exact answered
  · exact h

/-- A called part places a DISCOVERY entry only while it has none (08, R133). -/
theorem discover (h : QueueMoves s t) (r : Request) : QueueMoves s (actDiscover r t) := by
  unfold actDiscover
  split
  · exact h
  · split
    · exact h
    · rename_i absent
      rw [Bool.or_eq_true, not_or] at absent
      exact h.trans (.place nofun fun _ =>
        ⟨Bool.eq_false_iff.mpr absent.1, Bool.eq_false_iff.mpr absent.2⟩)

theorem restart (h : QueueMoves s t) (r : Request) : QueueMoves s (actRestart r t) := by
  unfold actRestart
  split
  · exact h
  · split
    · exact (h.placeReply _ _).still rfl rfl
    · exact h.still rfl rfl

theorem commit (h : QueueMoves s t) (r : Request) : QueueMoves s (actCommit r t) := by
  unfold actCommit
  split
  · exact h
  · rename_i k _
    have reserved : QueueMoves s (t.markReply k .reserved) := h.setReply k _
    have cleared : QueueMoves s (t.markReply k .reserved).clearIdle := reserved.still rfl rfl
    dsimp only
    split
    · split
      · exact cleared.placeReply _ _
      · split
        · exact cleared.placeReply _ _
        · exact cleared.still rfl rfl
    · exact reserved.placeReply _ _

theorem snapshot (h : QueueMoves s t) (r : Request) : QueueMoves s (actSnapshot r t) := by
  unfold actSnapshot
  split
  · exact h.takeSnapshot
  · exact answered (fun x hx => hx.takeSnapshot) h

theorem act (h : QueueMoves s t) (row : TakeRow) (r : Request) : QueueMoves s (row.act r t) := by
  cases row with
  | probe | resumeBus | readNotices | readAttention | unknownRequest =>
    refine answered (fun x hx => ?_) h
    exact hx.still rfl rfl
  | readConfig | readMailboxPart0 | capture | readMailboxPart2 | readCounters | ackNotices | openEdit =>
    refine answered (fun x hx => ?_) h
    simp only [answerReadConfig, answerReadMailboxPart0, answerCapture, answerReadMailboxPart2, answerReadCounters,
      answerAckNotices, answerOpenEdit, State.okay, State.refuse]
    (repeat' split) <;> exact hx.still rfl rfl
  | closeEdit | setMatch | setTiming | setSlot | setProfile =>
    refine answered (fun x hx => edit (fun y hy => ?_) _ hx) h
    simp only [bodyCloseEdit, bodySetMatch, bodySetTiming, bodySetSlot, bodySetProfile, State.okay, State.refuse]
    (repeat' split) <;> exact hy.still rfl rfl
  | setNoticeEnable => exact answered (fun _ hx => hx.setNoticeEnable r) h
  | cancel => exact answered (fun _ hx => hx.cancel r) h
  | commit => exact h.commit r
  | discover => exact h.discover r
  | assign => exact h.assign r
  | restart => exact h.restart r
  | broadcastDiscard => exact h.still rfl rfl
  | snapshot => exact h.snapshot r

end QueueMoves

/-! ### Every step -/

theorem performRestart_inFlight (s : State) : s.performRestart.inFlight = none := by
  have flight : s.performRestart.bus.flight = s.bus.flight.map Flight.finish := by simp [State.performRestart]
  unfold State.inFlight
  rw [flight]
  cases s.bus.flight with
  | none => rfl
  | some x => cases x <;> rfl

theorem assertReset_tx (s : State) : s.assertReset.tx = s.tx := by
  unfold State.assertReset
  dsimp only
  split <;> simp

/-- All that a step does to the queue and to the entry in flight are moves. -/
theorem queueMoves_kept (s : State) : Kept (QueueMoves s) where
  toKeptByBoundary := queueMoves_keptByBoundary s
  pop _ _ h := h.still rfl rfl
  restart x h := h.trans (.reset rfl (performRestart_inFlight x))
  begin t x h := QueueMoves.newEvent (h.still (u := x.advanceTo t) (by simp) (by simp))
  select x h possible := by
    obtain ⟨-, -, -, idle, -, -⟩ := (canSelect_iff x).mp possible
    refine h.newEvent.select ?_
    simp [State.inFlight, idle]
  take r rest x h _ _ _ := QueueMoves.act (h.newEvent.still (u := x.dequeue rest) rfl rfl) r.row r
  power _ _ asserted _ _ h := by
    cases asserted <;> exact h.trans (.reset rfl rfl)
  assertReset x h := h.trans (.leave (by rw [assertReset_tx]) (.inr rfl) (by rw [assertReset_tx]))
  releaseReset _ _ h := h.trans (.reset rfl rfl)
  frameBegins x h _ := h.still (by simp) (by unfold State.frameBegins; split <;> rfl)
  frameEnds r _ h _ := h.frameEnds r
  lose _ h _ := h.loseArbitration
  fail _ h _ := h.failAttempt
  complete _ h _ := h.completeAttempt
  finished o _ h _ := h.endAttempt _
  mark time m order _ h := h.markArrives time m order
  window _ h _ _ := h.windowCloses
  slotBegins x h := h.still (by simp) (by simp)
  slotEnds b _ h := h.slotEnds b
  masterExpiry order _ h _ := h.masterExpiry order
  localExpiry _ _ h _ := h.raiseBoundary _ _ _

theorem step_moves {s t : State} (h : step s = .next t) : QueueMoves s t := (queueMoves_kept s).step (.refl s) h

/-- Settles O54: a step moves the queue, and every move keeps its laws. -/
theorem stepKeepsTheQueueLaws : Obligations.StepKeepsTheQueueLaws :=
  ⟨fun _ _ hs hstep => queueLaw_of_moves (step_moves hstep) hs,
    fun _ _ hs hstep => singleLaw_of_moves (step_moves hstep) hs⟩

end Sys2Proof.Machine
end

section
/-! The state right after reset, from which every invariant of a run starts (11, R189). -/

namespace Sys2Proof.Machine

theorem reset_queueLaw : State.reset.queueLaw := by
  simp [State.queueLaw, State.inFlight, State.reset, TransmitQueue.reset, BusPort.reset]

theorem reset_singleLaw : State.reset.singleLaw := by
  simp [State.singleLaw, State.inFlight, State.reset, TransmitQueue.reset, BusPort.reset, Owner.isNotice,
    Owner.isDiscovery]

theorem reset_requestLaw : State.reset.requestLaw := by
  simp [State.requestLaw, State.reset, Engine.reset]

theorem reset_sessionLaw : State.reset.sessionLaw := by
  simp [State.sessionLaw, State.reset, Engine.reset]

theorem reset_imageLaw : State.reset.imageLaw := imageLaw_of_default rfl rfl rfl

/-- The round timer of a follower in HUNT runs (04, R57, R76). -/
theorem reset_ringLaw : State.reset.ringLaw := by
  simp [State.ringLaw, State.reset, RingPort.reset]

theorem reset_busLaw : State.reset.busLaw := by
  simp [State.busLaw, State.reset, BusPort.reset]

/-- Settles O53, law by law. -/
theorem resetSatisfiesTheLaws : Obligations.ResetSatisfiesTheLaws :=
  ⟨reset_queueLaw, reset_singleLaw, reset_requestLaw, reset_sessionLaw, reset_imageLaw, reset_ringLaw, reset_busLaw⟩

end Sys2Proof.Machine
end

section
/-! A selection (06, R99 to R102): the entries it discards, the entry the queue policy chooses, and the frame it captures. What
it leaves is said in two cases, that no entry is left and that one starts; each statement then reads its fields off. -/

namespace Sys2Proof.Machine

/-! ### Discards (06, R100) -/

/-- The entries a selection leaves to choose from. -/
def State.leftQueued (s : State) : List Entry := s.tx.queued.filter (fun x => !s.discards x.owner)

/-- The owners of the queued replies. -/
def State.queuedReplies (s : State) : List Owner := (s.tx.queued.map (fun e => e.owner)).filter Owner.isReply

theorem reply_mem_queuedReplies (s : State) (k : Fin 4) :
    Owner.reply k ∈ s.queuedReplies ↔ ∃ x ∈ s.tx.queued, x.owner = .reply k := by
  simp [State.queuedReplies, Owner.isReply]

theorem queuedReplies_length (s : State) :
    s.queuedReplies.length = (s.tx.queued.filter (fun x => x.owner.isReply)).length := by
  rw [State.queuedReplies, List.filter_map, List.length_map]
  rfl

theorem discard_of_zero {s : State} (h : s.engine.node = 0) : s.discard =
    s.queuedReplies.foldl (fun s o => s.loseReply o) (s.dropQueued (fun o => o.isReply || o.isNotice)) :=
  if_pos h

theorem loseReply_queued (o : Owner) (s : State) : (s.loseReply o).tx.queued = s.tx.queued := by
  cases o with
  | reply k =>
    simp only [State.loseReply, State.replyLeaves]
    split <;> rfl
  | report _ _ | notice | discovery => rfl

theorem discards_of_zero {s : State} (h : s.engine.node = 0) (o : Owner) : s.discards o = (o.isReply || o.isNotice) := by
  rw [State.discards, decide_eq_true h]
  cases o.isReply <;> cases o.isNotice <;> simp

theorem discards_of_disabled {s : State} (h : s.engine.node ≠ 0) (silent : s.enabledLatched = 0) (o : Owner) :
    s.discards o = o.isNotice := by
  rw [State.discards, decide_eq_false h, decide_eq_true silent, Bool.false_and, Bool.false_or, Bool.true_and]

theorem discards_of_enabled {s : State} (h : s.engine.node ≠ 0) (enabled : s.enabledLatched ≠ 0) (o : Owner) :
    s.discards o = false := by
  rw [State.discards, decide_eq_false h, decide_eq_false enabled, Bool.false_and, Bool.false_or, Bool.false_and]

theorem discard_queued (s : State) : s.discard.tx.queued = s.leftQueued := by
  unfold State.leftQueued
  by_cases node : s.engine.node = 0
  · rw [discard_of_zero node, foldl_keeps (f := fun s => s.tx.queued) (fun x o => loseReply_queued o x)]
    exact List.filter_congr fun x _ => by rw [discards_of_zero node]
  · unfold State.discard
    rw [if_neg node]
    split
    · rename_i silent
      exact List.filter_congr fun x _ => by rw [discards_of_disabled node silent]
    · rename_i enabled
      exact (List.filter_eq_self.mpr fun x _ => by rw [discards_of_enabled node enabled]; rfl).symm

/-- With a node number no reply is discarded. -/
theorem discard_replies {s : State} (h : s.engine.node ≠ 0) : s.discard.tx.replies = s.tx.replies := by
  unfold State.discard
  rw [if_neg h]
  split <;> rfl

theorem node_of_left {s : State} {e : Entry} (he : e ∈ s.leftQueued) (hr : e.owner.isReply = true) : s.engine.node ≠ 0 := by
  intro node
  have kept := (List.mem_filter.mp he).2
  rw [discards_of_zero node, hr] at kept
  simp at kept

theorem left_of_zero {s : State} (h : s.engine.node = 0) {e : Entry} (he : e ∈ s.leftQueued) :
    e.owner.isReply = false ∧ e.owner.isNotice = false := by
  have kept := (List.mem_filter.mp he).2
  rw [discards_of_zero h] at kept
  simpa using kept

/-! ### The queue policy (06, R101) -/

theorem identifier_congr {s t : State} (ha : t.active = s.active) (he : t.engine = s.engine) (o : Owner) :
    t.identifier o = s.identifier o := by
  cases o <;> simp only [State.identifier, he, config_congr ha]

/-- The policy PRIORITY sends one entry before the other: by a lower identifier, or as the earlier of equals. -/
def State.precedes (s : State) (e x : Entry) : Prop :=
  s.identifier e.owner < s.identifier x.owner ∨ (s.identifier e.owner = s.identifier x.owner ∧ e.stamp ≤ x.stamp)

theorem State.precedes.refl (s : State) (e : Entry) : s.precedes e e := .inr ⟨rfl, Nat.le_refl _⟩

theorem State.precedes.trans {s : State} {e x y : Entry} (h : s.precedes e x) (g : s.precedes x y) : s.precedes e y := by
  unfold State.precedes at *
  rcases h with h | ⟨h, stamp⟩
  · rcases g with g | ⟨g, -⟩
    · exact .inl (BitVec.lt_trans h g)
    · exact .inl (g ▸ h)
  · rcases g with g | ⟨g, stamp'⟩
    · exact .inl (h ▸ g)
    · exact .inr ⟨h.trans g, stamp.trans stamp'⟩

/-- Of a list in stamp order, the entry found precedes every other. -/
theorem lowest_precedes (s : State) (l : List Entry) : ∀ e : Entry, (e :: l).Pairwise (fun a b => a.stamp ≤ b.stamp) →
    ∀ x ∈ e :: l, s.precedes (s.lowest e l) x := by
  induction l with
  | nil =>
    intro e _ x hx
    rw [List.mem_singleton.mp hx]
    exact .refl s e
  | cons y l ih =>
    intro e sorted x hx
    rw [List.pairwise_cons] at sorted
    obtain ⟨first, rest⟩ := sorted
    unfold State.lowest
    split
    · rename_i lower
      have found := ih y rest
      rcases List.mem_cons.mp hx with rfl | hx
      · exact (found y List.mem_cons_self).trans (.inl lower)
      · exact found x hx
    · rename_i notLower
      have found := ih e (List.pairwise_cons.mpr
        ⟨fun z hz => first z (List.mem_cons_of_mem _ hz), (List.pairwise_cons.mp rest).2⟩)
      have precedes : s.precedes e y := by
        by_cases same : s.identifier e.owner = s.identifier y.owner
        · exact .inr ⟨same, first y List.mem_cons_self⟩
        · exact .inl (BitVec.lt_of_le_ne (BitVec.not_lt.mp notLower) same)
      rcases List.mem_cons.mp hx with rfl | hx
      · exact found x List.mem_cons_self
      · rcases List.mem_cons.mp hx with rfl | hx
        · exact (found e List.mem_cons_self).trans precedes
        · exact found x (List.mem_cons_of_mem _ hx)

theorem choose_none {s : State} (h : s.choose = none) : s.tx.queued = [] := by
  unfold State.choose at h
  split at h
  · assumption
  · split at h <;> cases h

theorem choose_arrival {s : State} {e : Entry} (h : s.choose = some e) (hp : s.active.profile.policy = .arrival)
    (sorted : s.tx.queued.Pairwise (fun a b => a.stamp ≤ b.stamp)) : ∀ x ∈ s.tx.queued, e.stamp ≤ x.stamp := by
  unfold State.choose at h
  rw [hp] at h
  split at h
  · cases h
  · rename_i y l queued
    cases h
    rw [queued] at sorted ⊢
    intro x hx
    rcases List.mem_cons.mp hx with rfl | hx
    · exact Nat.le_refl _
    · exact (List.pairwise_cons.mp sorted).1 x hx

theorem choose_priority {s : State} {e : Entry} (h : s.choose = some e) (hp : s.active.profile.policy = .priority)
    (sorted : s.tx.queued.Pairwise (fun a b => a.stamp ≤ b.stamp)) : ∀ x ∈ s.tx.queued, s.precedes e x := by
  unfold State.choose at h
  rw [hp] at h
  split at h
  · cases h
  · rename_i y l queued
    cases h
    rw [queued] at sorted ⊢
    exact lowest_precedes s l y sorted

/-! ### What a selection leaves -/

/-- A selection discards, and then starts the entry chosen, if one is left (06, R99). -/
theorem select_cases (s : State) : (s.leftQueued = [] ∧ s.select = s.discard) ∨
    ∃ e, s.discard.choose = some e ∧ e ∈ s.leftQueued ∧ s.select = s.discard.start e := by
  unfold State.select
  dsimp only
  split
  · rename_i unchosen
    exact .inl ⟨by rw [← discard_queued, choose_none unchosen], rfl⟩
  · rename_i e chosen
    exact .inr ⟨e, chosen, by rw [← discard_queued]; exact choose_mem chosen, rfl⟩

theorem exec_selection {s : State} (h : s.finish.canSelect = true) :
    exec .selection s = .next s.finish.newEvent.select := by
  simp only [exec, execSelection, h, if_true]

theorem start_bus (e : Entry) (s : State) : (s.start e).bus =
    { s.bus with line := .sending, flight := some (.attempt e (s.capturedFrame e.owner)) } := by
  have bus : (s.ownerStarts e.owner).bus = s.bus := by simp
  rw [← bus]
  rfl

theorem start_btx (e : Entry) (s : State) : (s.start e).btx = s.btx ++ [.frame (s.capturedFrame e.owner)] := by
  have btx : (s.ownerStarts e.owner).btx = s.btx := by simp
  rw [← btx]
  rfl

theorem start_boxes (e : Entry) (s : State) : (s.start e).boxes = (s.ownerStarts e.owner).boxes := rfl

theorem start_replies (e : Entry) (s : State) : (s.start e).tx.replies = (s.ownerStarts e.owner).tx.replies := rfl

theorem start_notices (e : Entry) (s : State) : (s.start e).notices = (s.ownerStarts e.owner).notices := rfl

/-- What is left in flight by a selection is the entry it has started, with its frame. -/
theorem select_flight {s : State} {e : Entry} {f : Frame} (idle : s.bus.flight = none)
    (h : s.select.bus.flight = some (.attempt e f)) :
    e ∈ s.leftQueued ∧ f = s.discard.capturedFrame e.owner ∧ s.select = s.discard.start e := by
  rcases select_cases s with ⟨-, discards⟩ | ⟨x, -, left, starts⟩
  · rw [discards] at h
    simp [idle] at h
  · rw [starts, start_bus] at h
    cases h
    exact ⟨left, rfl, starts⟩

/-! ### The choice -/

theorem canTake_iff (s : State) : s.canTake = true ↔ s.held = false ∧ s.engine.waiting = none ∧
    ∃ r rest, s.engine.requests = r :: rest ∧ (r.broadcast = false → ∃ k : Fin 4, (s.reply k).status = .free) ∧
      (r.broadcast = true → r.code = 0x03 →
        s.hasInFlight Owner.isReply = false ∧ s.hasInFlight Owner.isNotice = false) := by
  have free : s.freeReply.isSome = true ↔ ∃ k : Fin 4, (s.reply k).status = .free := by
    simp [State.freeReply, List.find?_isSome]
  simp only [State.canTake, Bool.and_eq_true, Bool.not_eq_true', Option.isNone_iff_eq_none, and_assoc]
  refine and_congr_right fun _ => and_congr_right fun _ => ?_
  cases s.engine.requests with
  | nil => simp
  | cons r rest =>
    cases hb : r.broadcast with
    | false => simp [hb, free]
    | true => simp [hb, imp_iff_not_or]

/-- Before an event, what is possible within the part has come about by rows of the table (log 3, log 5). -/
theorem ripe_settles (t : Nat) (s : State) :
    (t = s.now → State.Finishes s (s.ripe t)) ∧ (t ≠ s.now → State.Settles s (s.ripe t)) := by
  unfold State.ripe
  refine ⟨fun now => ?_, fun later => ?_⟩
  · rw [if_pos now]
    exact finish_finishes s
  · rw [if_neg later]
    exact settle_settles s

theorem capturedFrame_id (s : State) (o : Owner) : (s.capturedFrame o).id = s.identifier o := rfl

/-- Settles O11: the discards, then the choice and the start. -/
theorem selectionFollowsThePolicy : Obligations.SelectionFollowsThePolicy := by
  refine ⟨?_, canSelect_iff, canTake_iff, ripe_settles⟩
  intro s u left possible law
  obtain ⟨-, -, inOrder⟩ := law
  have selects := exec_selection possible
  have keeps : u.newEvent.leftQueued = left := rfl
  have ids (o : Owner) : u.newEvent.discard.identifier o = u.identifier o := identifier_congr (by simp) (by simp) o
  have policy : u.newEvent.discard.active.profile.policy = u.active.profile.policy := by simp
  have queued : u.newEvent.discard.tx.queued = left := discard_queued _
  have sorted : left.Pairwise (fun a b => a.stamp ≤ b.stamp) := inOrder.sublist List.filter_sublist
  rcases select_cases u.newEvent with ⟨empty, discards⟩ | ⟨e, chosen, mem, starts⟩
  · refine ⟨fun _ => ⟨_, selects, ?_⟩, fun nonempty => absurd empty nonempty⟩
    rw [discards]
    exact ⟨queued.trans empty, by simp, by simp⟩
  · refine ⟨fun empty => ?_, fun _ => ⟨_, e, u.newEvent.discard.capturedFrame e.owner, selects, mem, ?_⟩⟩
    · rw [keeps, empty] at mem
      exact absurd mem List.not_mem_nil
    · rw [← queued] at sorted
      rw [starts, start_bus, start_queued, start_btx, queued, capturedFrame_id, ids]
      refine ⟨by simp, rfl, by simp, rfl, fun arrival => ?_, fun priority => ?_⟩
      · rw [← queued]
        exact choose_arrival chosen (policy.trans arrival) sorted
      · have first := choose_priority chosen (policy.trans priority) sorted
        simpa only [State.precedes, ids, queued] using first

/-! ### Replies lost while the node number is 0 (06, R100; 08, R146) -/

theorem satSucc_toNat (x : BitVec 16) : (satSucc x).toNat = min 65535 (x.toNat + 1) := by
  unfold satSucc
  split
  · rename_i full
    rw [full]
    rfl
  · rename_i room
    have : x.toNat ≠ 65535 := fun h => room (BitVec.eq_of_toNat_eq h)
    rw [BitVec.toNat_add]
    simp
    omega

theorem setReply_reply (k j : Fin 4) (r : ReplyEntry) (s : State) :
    (s.setReply k r).reply j = if j = k then r else s.reply j := by
  simp only [State.setReply, State.reply, Fin.getElem_fin, Vector.getElem_set]
  by_cases h : j = k
  · rw [h, if_pos rfl, if_pos rfl]
  · rw [if_neg h, if_neg fun e => h (Fin.ext e.symm)]

theorem replyLeaves_eq (k : Fin 4) (s : State) : s.replyLeaves k = { s with
    tx := { s.tx with replies := s.tx.replies.set k ReplyEntry.blank }
    restartDue := s.restartDue || decide (s.engine.waiting = some k) } := by
  unfold State.replyLeaves
  by_cases waits : s.engine.waiting = some k
  · rw [decide_eq_true waits, Bool.or_true]
    exact if_pos waits
  · rw [decide_eq_false waits, Bool.or_false]
    exact if_neg waits

theorem replyLeaves_reply (k j : Fin 4) (s : State) :
    (s.replyLeaves k).reply j = if j = k then ReplyEntry.blank else s.reply j := by
  rw [replyLeaves_eq]
  exact setReply_reply k j _ s

theorem replyLeaves_restartDue (k : Fin 4) (s : State) :
    (s.replyLeaves k).restartDue = (s.restartDue || decide (s.engine.waiting = some k)) := by
  rw [replyLeaves_eq]

/-- The replies with these owners are lost between `s` and `t`. -/
structure RepliesLost (l : List Owner) (s t : State) : Prop where
  reply : ∀ k, t.reply k = if Owner.reply k ∈ l then ReplyEntry.blank else s.reply k
  restartDue : t.restartDue = true ↔
    s.restartDue = true ∨ ∃ k, Owner.reply k ∈ l ∧ s.engine.waiting = some k
  count : (t.live 110).toNat = min 65535 ((s.live 110).toNat + l.length)

theorem RepliesLost.none (s : State) : RepliesLost [] s s where
  reply _ := by simp
  restartDue := by simp
  count := by
    have := (s.live 110).isLt
    simp
    omega

theorem RepliesLost.cons {k : Fin 4} {l : List Owner} {s t : State} (h : RepliesLost l (s.loseReply (.reply k)) t) :
    RepliesLost (.reply k :: l) s t where
  reply j := by
    rw [h.reply, State.loseReply, replyLeaves_reply]
    by_cases hj : j = k
    · simp [hj]
    · simp [hj, State.reply]
  restartDue := by
    have due : (s.loseReply (.reply k)).restartDue = (s.restartDue || decide (s.engine.waiting = some k)) :=
      replyLeaves_restartDue k (s.count 110)
    have engine : (s.loseReply (.reply k)).engine = s.engine := by simp
    rw [h.restartDue, due, engine]
    simp only [Bool.or_eq_true, decide_eq_true_eq, or_assoc, List.mem_cons, Owner.reply.injEq, or_and_right, exists_or,
      exists_eq_left]
  count := by
    have one : ((s.loseReply (.reply k)).live 110) = satSucc (s.live 110) := by
      rw [State.loseReply, live_congr (s := s.count 110) (by rw [replyLeaves_eq]; rfl), count_live_self]
    rw [h.count, one, satSucc_toNat, List.length_cons]
    omega

theorem loseReplies_lost (l : List Owner) (hl : ∀ o ∈ l, o.isReply = true) :
    ∀ s : State, RepliesLost l s (l.foldl (fun s o => s.loseReply o) s) := by
  induction l with
  | nil => exact RepliesLost.none
  | cons o l ih =>
    intro s
    have rest := ih (fun x hx => hl x (List.mem_cons_of_mem _ hx)) (s.loseReply o)
    cases o with
    | reply k => exact rest.cons
    | report _ _ | notice | discovery => exact absurd (hl _ List.mem_cons_self) (by simp [Owner.isReply])

theorem discard_lost {s : State} (h : s.engine.node = 0) : RepliesLost s.queuedReplies s s.discard := by
  rw [discard_of_zero h]
  obtain ⟨reply, due, count⟩ := loseReplies_lost s.queuedReplies (fun o ho => (List.mem_filter.mp ho).2)
    (s.dropQueued (fun o => o.isReply || o.isNotice))
  exact ⟨reply, due, count⟩

/-- The start of an entry that is no reply leaves the reply entries alone. -/
theorem start_reply {e : Entry} (h : e.owner.isReply = false) (s : State) (k : Fin 4) :
    (s.start e).reply k = s.reply k := by
  have replies : (s.start e).tx.replies = s.tx.replies := by
    rw [start_replies]
    cases ho : e.owner with
    | reply j => simp [ho, Owner.isReply] at h
    | report _ _ | notice | discovery => rfl
  simp only [State.reply, replies]

/-- A selection under node number 0 loses the queued replies; the entry it starts is none of them. -/
theorem select_lost {s : State} (h : s.engine.node = 0) : RepliesLost s.queuedReplies s s.select := by
  have lost := discard_lost h
  rcases select_cases s with ⟨-, discards⟩ | ⟨e, -, left, starts⟩
  · rw [discards]
    exact lost
  · have other := (left_of_zero h left).1
    rw [starts]
    have due : (s.discard.start e).restartDue = s.discard.restartDue := by simp
    have live : (s.discard.start e).live 110 = s.discard.live 110 := live_congr (by simp) 110
    exact ⟨fun k => (start_reply other _ k).trans (lost.reply k), due ▸ lost.restartDue, live ▸ lost.count⟩

/-- What a selection leaves queued was left by its discards. -/
theorem select_queued (s : State) : ∀ x ∈ s.select.tx.queued, x ∈ s.leftQueued := by
  intro x hx
  rcases select_cases s with ⟨-, discards⟩ | ⟨e, -, -, starts⟩
  · rwa [discards, discard_queued] at hx
  · rw [starts, start_queued, discard_queued] at hx
    exact List.mem_of_mem_filter hx

/-- Settles O12: the replies are lost, and what is left to start is no reply and no notice. -/
theorem nodeZeroSendsNoReply : Obligations.NodeZeroSendsNoReply := by
  intro s u queued possible node
  obtain ⟨-, -, -, idle, -, -⟩ := (canSelect_iff u).mp possible
  obtain ⟨reply, due, count⟩ := select_lost (s := u.newEvent) node
  have lost (k : Fin 4) : Owner.reply k ∈ u.newEvent.queuedReplies ↔ queued k := reply_mem_queuedReplies _ k
  have closed : u.newEvent.restartDue = false := (finish_done s).2
  refine ⟨_, exec_selection possible, fun x hx => left_of_zero (s := u.newEvent) node (select_queued _ x hx),
    fun e f hf => ?_, fun k hk => ?_, fun k hk => ?_, ?_, ?_⟩
  · exact left_of_zero (s := u.newEvent) node (select_flight (s := u.newEvent) idle hf).1
  · rw [reply, if_pos ((lost k).mpr hk)]
    rfl
  · rw [reply, if_neg fun h => hk ((lost k).mp h)]
    rfl
  · rw [due, closed]
    simp only [Bool.false_eq_true, false_or, lost]
    rfl
  · rw [count, queuedReplies_length]
    rfl

/-! ### The frame captured at a start (06, R101, R102; 05, R86; 08, R132, R152, R153) -/

theorem replyId_toNat (n : BitVec 6) : (replyId n).toNat = 0xF40 + n.toNat := by
  have := n.isLt
  simp [replyId]
  omega

theorem noticeId_toNat (n : BitVec 6) : (noticeId n).toNat = 0xF80 + n.toNat := by
  have := n.isLt
  simp [noticeId]
  omega

theorem discoveryId_toNat (serial : Vector (BitVec 8) 6) :
    (discoveryId serial).toNat = 0xFC0 + (serial.toList.foldl (fun x y => x ^^^ y) 0).toNat % 64 := by
  simp [discoveryId, serialHash]
  omega

theorem capturedFrame_lengthCode (s : State) (o : Owner) :
    (s.capturedFrame o).lengthCode.toNat = (s.capturedFrame o).data.length % 16 := by
  simp [State.capturedFrame, frameOf]

theorem reportData_eq (c : MailboxConfig) (b : Runtime) : reportData c b =
    if b.classSeen.degraded = false ∨ c.degraded = .forward then b.data.toList.take c.length else [] := by
  simp [reportData]

/-- The frame a reply entry gives depends on its content and on the node number. -/
theorem capturedFrame_reply {u s : State} {k : Fin 4} (engine : s.engine = u.engine) (reply : s.reply k = u.reply k) :
    s.capturedFrame (.reply k) = frameOf (replyId u.engine.node) (replyData (u.reply k).content) := by
  rw [← engine, ← reply]
  rfl

theorem capturedFrame_notice {u s : State} (engine : s.engine = u.engine) (ring : s.ring = u.ring)
    (notices : s.notices = u.notices) : s.capturedFrame .notice = frameOf (noticeId u.engine.node) u.noticeData := by
  simp only [State.capturedFrame, State.identifier, State.noticeData, State.enabledLatched, engine, ring, notices]

theorem capturedFrame_discovery {u s : State} (engine : s.engine = u.engine) :
    s.capturedFrame .discovery = frameOf (discoveryId u.engine.serial) u.discoveryData := by
  simp only [State.capturedFrame, State.identifier, State.discoveryData, engine]

theorem capturedFrame_report {u s : State} (m : Fin 32) (g : Byte) (active : s.active = u.active)
    (boxes : s.boxes = u.boxes) :
    s.capturedFrame (.report m g) = frameOf (u.config m).identifier (reportData (u.config m) (u.box m)) := by
  simp only [State.capturedFrame, State.identifier, config_congr active, box_congr boxes]

/-- Settles O13: the frame is the one captured of what the discards leave, which is the owner as the selection found it. -/
theorem startCapturesTheFrame : Obligations.StartCapturesTheFrame := by
  intro s t e f u possible selects flight
  obtain ⟨-, -, -, idle, -, -⟩ := (canSelect_iff u).mp possible
  rw [exec_selection possible] at selects
  cases selects
  obtain ⟨left, rfl, starts⟩ := select_flight (s := u.newEvent) idle flight
  rw [starts]
  have engine : u.newEvent.discard.engine = u.engine := by simp
  refine ⟨capturedFrame_lengthCode _ _, fun k ho => ?_, fun ho => ?_, fun ho => ?_, fun m g ho => ?_⟩
  · have node := node_of_left left (by rw [ho]; rfl)
    have reply : u.newEvent.discard.reply k = u.reply k := by
      simp only [State.reply, discard_replies node]
      rfl
    rw [ho, capturedFrame_reply engine reply]
    refine ⟨replyId_toNat _, ?_, rfl⟩
    have inFlight : ((u.newEvent.discard.markReply k .inFlight).reply k).status = .inFlight := by
      rw [State.markReply, setReply_reply, if_pos rfl]
    simpa only [State.reply, start_replies, State.ownerStarts, ho] using inFlight
  · rw [ho, capturedFrame_notice engine (by simp) (by simp)]
    refine ⟨noticeId_toNat _, ?_, rfl⟩
    rw [start_notices, ho]
    rfl
  · rw [ho, capturedFrame_discovery engine]
    exact ⟨discoveryId_toNat _, rfl⟩
  · have boxes : u.newEvent.discard.boxes = u.boxes := by simp
    rw [ho, capturedFrame_report (u := u) m g (by simp) boxes]
    refine ⟨rfl, reportData_eq _ _, ?_⟩
    rw [box_congr (start_boxes e _), ho]
    simp only [State.ownerStarts, setBox_box_self, box_congr boxes]

end Sys2Proof.Machine
end

section
/-! The outcomes of an attempt but the completion of a current report (06, R103 to R105, R108; 07, R117 to R119). An outcome is
said as the part at the end of the attempt, and what the queue then does with the entry. -/

namespace Sys2Proof.Machine

/-! ### The end of an attempt -/

/-- The part as the bus is lost to a lower identifier, the entry's outcome still to come (07, R117). -/
def State.attemptLost (u : State) : State := { u with
  bus := { u.bus with line := .receiving, flight := none }
  counters := (u.count 103).counters }

/-- The part as an attempt has ended in an error, the entry's outcome still to come (07, R118). -/
def State.attemptFailed (u : State) : State := { u with
  bus := { u.bus with line := .idle, flight := none, errors := u.bus.errors + 1 }
  counters := (u.count 104).counters }

/-- The 32nd error in a row silences the port (07, R120). -/
def State.silencedBy (errors : Nat) (s : State) : State := if errors = 32 then s.enterSilent else s

/-- An attempt that an event finds was under way before time moved on. -/
theorem ripe_flight {t : Nat} {s : State} {x : Flight} (h : (s.found t).bus.flight = some x) :
    (s.ripe t).bus.flight = some x := by
  have bus : (s.found t).bus = (s.ripe t).bus := by simp
  rw [← bus, h]

/-- An ARBITRATION_LOST in time, to a lower identifier than that of the frame in flight. -/
theorem exec_arbitrationLost {time : Nat} {winner : BusId} {e : Entry} {f : Frame} {s : State}
    (ht : s.inTime (16 * time)) (hf : (s.found (16 * time)).bus.flight = some (.attempt e f)) (hw : winner < f.id) :
    exec (.arbitrationLost time winner) s = .next ((s.found (16 * time)).attemptLost.returnEntry e) := by
  have effect : (s.found (16 * time)).loseArbitration = (s.found (16 * time)).attemptLost.returnEntry e := by
    simp only [State.loseArbitration, State.inFlight, hf]
    rfl
  have occurs : ((s.ripe (16 * time)).attempting && (s.ripe (16 * time)).outranked winner) = true := by
    simp [State.attempting, State.outranked, State.inFlight, ripe_flight hf, hw]
  rw [← effect]
  exact congrArg _ (atTime_of_occurs ht occurs)

/-- A TRANSMIT_ERROR in time. -/
theorem exec_transmitError {time : Nat} {e : Entry} {f : Frame} {s : State} (ht : s.inTime (16 * time))
    (hf : (s.found (16 * time)).bus.flight = some (.attempt e f)) : exec (.transmitError time) s =
      .next (((s.found (16 * time)).attemptFailed.errorEntry e).silencedBy ((s.found (16 * time)).bus.errors + 1)) := by
  have effect : (s.found (16 * time)).failAttempt =
      ((s.found (16 * time)).attemptFailed.errorEntry e).silencedBy ((s.found (16 * time)).bus.errors + 1) := by
    have errors : ((s.found (16 * time)).attemptFailed.errorEntry e).bus.errors = (s.found (16 * time)).bus.errors + 1 := by
      simp [State.attemptFailed]
    rw [State.silencedBy, ← errors]
    simp only [State.failAttempt, State.inFlight, hf]
    rfl
  have occurs : (s.ripe (16 * time)).attempting = true := by
    simp [State.attempting, State.inFlight, ripe_flight hf]
  rw [← effect]
  exact congrArg _ (atTime_of_occurs ht occurs)

theorem silencedBy_other {n : Nat} (h : n ≠ 32) (s : State) : s.silencedBy n = s := if_neg h

/-- An error with attempts left, short of the 32nd in a row. -/
theorem exec_transmitError_again {time : Nat} {e : Entry} {f : Frame} {s : State} (ht : s.inTime (16 * time))
    (hf : (s.found (16 * time)).bus.flight = some (.attempt e f))
    (left : e.attempts + 1 < (s.found (16 * time)).active.profile.retryLimit)
    (short : (s.found (16 * time)).bus.errors + 1 ≠ 32) : exec (.transmitError time) s =
      .next ((s.found (16 * time)).attemptFailed.returnEntry { e with attempts := e.attempts + 1 }) := by
  rw [exec_transmitError ht hf, silencedBy_other short]
  exact congrArg _ (if_pos left)

/-! ### An entry goes back (06, R103; 05, R87) -/

/-- The entry of a current generation, or of no report, is back at the position of its stamp. -/
structure EntryBack (e : Entry) (s t : State) : Prop where
  queued : t.tx.queued = e.putBack s.tx.queued
  waits : State.ownerWaits e.owner s t
  frame : t = { s with boxes := t.boxes, tx := { s.tx with queued := t.tx.queued, replies := t.tx.replies } }

theorem returnEntry_back {e : Entry} {s : State} (current : s.isCurrent e)
    (sorted : s.tx.queued.Pairwise (fun a b => a.stamp ≤ b.stamp)) : EntryBack e s (s.returnEntry e) := by
  have position := insertEntry_sorted (e := e) sorted
  unfold State.returnEntry
  split
  · rename_i m g ho
    rw [if_pos (current m g ho)]
    exact ⟨position, by rw [ho]; exact ⟨rfl, rfl⟩, rfl⟩
  all_goals
    rename_i ho
    exact ⟨position, by rw [ho]; exact ⟨rfl, rfl⟩, rfl⟩

/-- What a returned entry's owner becomes is told of its mailboxes and reply entries alone. -/
theorem ownerWaits_congr {o : Owner} {u s t : State} (boxes : s.boxes = u.boxes) (tx : s.tx = u.tx)
    (h : State.ownerWaits o s t) : State.ownerWaits o u t := by
  have reply (k : Fin 4) : s.reply k = u.reply k := by simp only [State.reply, tx]
  cases o <;> simp only [State.ownerWaits, boxes, tx, reply, box_congr boxes] at h ⊢ <;> exact h

/-- Settles O14: both outcomes put the entry back, each after its own end of the attempt. -/
theorem lostAttemptReturnsTheEntry : Obligations.LostAttemptReturnsTheEntry := by
  refine ⟨?_, ?_⟩
  · intro time winner e f s ht u hf hw current law
    obtain ⟨-, -, sorted⟩ := law
    obtain ⟨queued, waits, frame⟩ := returnEntry_back (s := u.attemptLost) current sorted
    exact ⟨_, exec_arbitrationLost ht hf hw, queued, ownerWaits_congr rfl rfl waits, frame⟩
  · intro time e f s ht u hf current law left short
    obtain ⟨-, -, sorted⟩ := law
    obtain ⟨queued, waits, frame⟩ :=
      returnEntry_back (e := { e with attempts := e.attempts + 1 }) (s := u.attemptFailed) current sorted
    exact ⟨_, exec_transmitError_again ht hf left short, queued, ownerWaits_congr rfl rfl waits, frame⟩

/-! ### The completions of replies, notices and discovery replies (06, R105; 10, R176, R177) -/

/-- Only a report's frame is offered to the mailboxes (02, R19). -/
theorem selfFeed_of_other {e : Entry} (h : ∀ m g, e.owner ≠ .report m g) (f : Frame) (s : State) : s.selfFeed e f = s := by
  unfold State.selfFeed
  split
  · rename_i m g ho
    exact absurd ho (h m g)
  all_goals rfl

/-- The completion of an entry that is no report. -/
theorem exec_completion_other {time : Nat} {e : Entry} {f : Frame} {s : State} (ht : s.inTime (16 * time))
    (hf : (s.found (16 * time)).bus.flight = some (.attempt e f)) (h : ∀ m g, e.owner ≠ .report m g) :
    exec (.completion time) s = .next ((s.found (16 * time)).attemptDone.completeEntry e) := by
  rw [exec_completion ht hf, selfFeed_of_other h]

theorem completeEntry_reply {e : Entry} {k : Fin 4} (h : e.owner = .reply k) (s : State) :
    s.completeEntry e = s.replyLeaves k := by
  simp only [State.completeEntry, h]

/-- The part with the notice's sequence number advanced (10, R177). -/
def State.noticeSent (s : State) : State := { s with notices := { s.notices with sequence := s.notices.sequence + 1 } }

theorem completeEntry_notice {e : Entry} (h : e.owner = .notice) (s : State) :
    s.completeEntry e = s.noticeSent.noticeLeaves := by
  simp only [State.completeEntry, h]
  rfl

theorem completeEntry_discovery {e : Entry} (h : e.owner = .discovery) (s : State) : s.completeEntry e = s := by
  simp only [State.completeEntry, h]

theorem noticeLeaves_of_undeferred {s : State} (h : s.notices.deferred = false) : s.noticeLeaves = s := by
  unfold State.noticeLeaves
  rw [h]
  rfl

/-- Where there is no NOTICE entry an offer places one (10, R176). -/
theorem offer_of_absent {s : State} (hq : s.hasQueued Owner.isNotice = false) (hf : s.hasInFlight Owner.isNotice = false) :
    s.offer = { s.place .notice with notices := { s.notices with repeatCount := 0 } } := by
  unfold State.offer
  rw [hf, hq]
  rfl

/-- A deferred offer places a new notice as the one in flight has left (10, R176). -/
theorem noticeLeaves_of_deferred {s : State} (hd : s.notices.deferred = true) (hq : s.hasQueued Owner.isNotice = false)
    (hf : s.hasInFlight Owner.isNotice = false) : s.noticeLeaves =
      { s.place .notice with notices := { s.notices with deferred := false, repeatCount := 0 } } := by
  unfold State.noticeLeaves
  rw [if_pos hd]
  exact offer_of_absent (s := { s with notices := { s.notices with deferred := false } }) hq hf

/-- Settles O18: each completion is what its owner's entry does as it leaves. -/
theorem otherCompletions : Obligations.OtherCompletions := by
  intro time e f s ht u hf done
  have completes (other : ∀ m g, e.owner ≠ .report m g) : exec (.completion time) s = .next (done.completeEntry e) :=
    exec_completion_other ht hf other
  refine ⟨fun k ho => ?_, fun ho kept => ?_, fun ho deferred absent law => ?_, fun ho => ?_⟩
  · rw [completes (by simp [ho]), completeEntry_reply ho]
    refine ⟨_, rfl, ?_, ?_, fun j hj => ?_⟩
    · rw [replyLeaves_eq]
    · rw [replyLeaves_reply, if_pos rfl]
      rfl
    · rw [replyLeaves_reply, if_neg hj]
      rfl
  · rw [completes (by simp [ho]), completeEntry_notice ho, noticeLeaves_of_undeferred (s := done.noticeSent) kept]
    rfl
  · have queued : u.hasQueued Owner.isNotice = false := List.any_eq_false.mpr fun x hx => by simp [absent x hx]
    rw [completes (by simp [ho]), completeEntry_notice ho,
      noticeLeaves_of_deferred (s := done.noticeSent) deferred queued rfl]
    exact ⟨_, rfl, placedBehind_of_stamps (v := done) rfl (found_stamps law), rfl⟩
  · rw [completes (by simp [ho]), completeEntry_discovery ho]

/-! ### A report of an older generation (05, R90; 06, R108) -/

/-- The owners of the entries that the retirement of an older generation's report places for mailbox m. -/
def State.retirePlaces (m : Fin 32) (s : State) : List Owner :=
  if (s.box m).state = .pending then [.report m (s.box m).generation] else []

theorem retire_eq (m : Fin 32) (s : State) :
    s.retire m = { s with tx := { s.tx with queued := (s.retire m).tx.queued } } := by
  unfold State.retire
  split <;> rfl

theorem retire_placed {m : Fin 32} {s : State} (hs : ∀ e ∈ s.tx.queued, e.stamp < s.tx.epoch * 64) :
    s.placedInOrder (s.retirePlaces m) (s.retire m) := by
  unfold State.retire State.retirePlaces
  split
  · exact placedInOrder_one rfl hs
  · exact (placedInOrder_nil s s).mpr rfl

/-- A report ranks ahead of the notice of its event (06, R98). -/
theorem retire_stamps {m : Fin 32} {s : State} (hs : ∀ e ∈ s.tx.queued, e.stamp < s.tx.epoch * 64) :
    ∀ e ∈ (s.retire m).tx.queued, e.stamp < (s.retire m).tx.epoch * 64 + 40 := by
  intro e he
  have queued (he : e ∈ s.tx.queued) : e.stamp < s.tx.epoch * 64 + 40 := Nat.lt_add_right 40 (hs e he)
  unfold State.retire at he ⊢
  split at he
  · rename_i pending
    rw [if_pos pending]
    rcases mem_insertEntry.mp he with rfl | he
    · exact Nat.add_lt_add_left (show 8 + m.val < 40 by omega) _
    · exact queued he
  · rename_i other
    rw [if_neg other]
    exact queued he

section
variable {e : Entry} {m : Fin 32} {g : Byte} {s : State}

theorem completeEntry_of_old (ho : e.owner = .report m g) (hg : g ≠ (s.box m).generation) :
    s.completeEntry e = s.retire m := by
  simp only [State.completeEntry, ho, if_neg hg]

theorem returnEntry_of_old (ho : e.owner = .report m g) (hg : g ≠ (s.box m).generation) :
    s.returnEntry e = s.retire m := by
  simp only [State.returnEntry, ho, if_neg hg]

end

/-- The retirement at a completion is an outcome a self-feed can follow (02, R19; 05, R90). -/
theorem retire_outcome {m : Fin 32} {g : Byte} {e : Entry} {f : Frame} {u : State}
    (hf : u.bus.flight = some (.attempt e f)) (ho : e.owner = .report m g)
    (hs : ∀ e ∈ u.tx.queued, e.stamp < u.tx.epoch * 64) :
    Outcome f (u.retirePlaces m) u (u.attemptDone.retire m) where
  active := by simp [State.attemptDone]
  engine := by simp [State.attemptDone]
  notices := by simp [State.attemptDone]
  box j _ := box_congr (by simp [State.attemptDone]) j
  placed := retire_placed (s := u.attemptDone) hs
  reports o h := by
    unfold State.retirePlaces at h
    split at h
    · rw [List.mem_singleton.mp h]
      rfl
    · exact absurd h List.not_mem_nil
  flight := by
    have done : (u.attemptDone.retire m).inFlight = none := by simp [State.inFlight, State.attemptDone]
    have report : u.inFlight = some e := by simp only [State.inFlight, hf]
    simp [State.hasInFlight, done, report, ho, Owner.isNotice]
  stamps := retire_stamps (s := u.attemptDone) hs

/-- Settles O19: the three outcomes retire the report, and after a completion its frame may be fed back. -/
theorem oldGenerationIsRetired : Obligations.OldGenerationIsRetired := by
  intro time m g e f s ht u fed placed hf ho hg law
  have stamps := found_stamps law
  refine ⟨?_, fun w hw => ?_, fun left short => ?_⟩
  · have outcome := retire_outcome hf ho stamps
    have live (k : Fin 111) : (u.attemptDone.retire m).live k = u.live k := live_congr (by simp [State.attemptDone]) k
    have completes : exec (.completion time) s = .next ((u.attemptDone.retire m).fed f) := by
      rw [exec_completion ht hf, selfFeed_of_report ho, completeEntry_of_old (s := u.attemptDone) ho hg]
    refine ⟨_, completes, fun j => ?_, outcome.matchMarks, outcome.conditionEvent, fun k hk => ?_, ?_⟩
    · exact outcome.matchedAt (box_congr (by simp [State.attemptDone]) j) (live _) (live _) (live _)
    · rw [fed_live_high f _ hk, live]
    · have frame := fed_eq f (u.attemptDone.retire m)
      generalize (u.attemptDone.retire m).fed f = t at frame ⊢
      rw [retire_eq] at frame
      exact frame
  · have loses := exec_arbitrationLost ht hf hw
    rw [returnEntry_of_old (s := u.attemptLost) ho hg] at loses
    exact ⟨_, loses, retire_placed (s := u.attemptLost) stamps, retire_eq m u.attemptLost⟩
  · have fails := exec_transmitError_again ht hf left short
    rw [returnEntry_of_old (s := u.attemptFailed) (e := { e with attempts := e.attempts + 1 }) ho hg] at fails
    exact ⟨_, fails, retire_placed (s := u.attemptFailed) stamps, retire_eq m u.attemptFailed⟩

end Sys2Proof.Machine
end

section
/-! The transmit error that uses the last attempt (06, R106, R108; 05, R89, R90; 07, R118, R120; 10, R174, R176). All that an
abandon and an entry into SILENT may do besides the owner's own part is said once, as what the event adds. -/

namespace Sys2Proof.Machine

/-! ### What an event adds -/

/-- From `s` to `t` an event places entries of owners in `p`, counts, marks and latches; it drops no entry and no flag. -/
structure Adds (p : Owner → Prop) (s t : State) : Prop where
  kept : ∀ x ∈ s.tx.queued, x ∈ t.tx.queued
  new : ∀ x ∈ t.tx.queued, x ∈ s.tx.queued ∨ (x.attempts = 0 ∧ 64 * s.tx.epoch ≤ x.stamp ∧ p x.owner)
  epoch : t.tx.epoch = s.tx.epoch
  latched : ∀ c : Condition, c.isIn s.notices.latched = true → c.isIn t.notices.latched = true
  frame : t = { s with
    boxes := t.boxes
    tx := t.tx
    bus := t.bus
    notices := { t.notices with enabled := s.notices.enabled, sequence := s.notices.sequence }
    counters := { s.counters with live := t.counters.live }
    restartDue := t.restartDue }

namespace Adds

variable {p : Owner → Prop} {s t u : State}

theorem refl (p : Owner → Prop) (s : State) : Adds p s s := ⟨fun _ h => h, fun _ h => .inl h, rfl, fun _ h => h, rfl⟩

theorem trans (h : Adds p s t) (g : Adds p t u) : Adds p s u where
  kept x hx := g.kept x (h.kept x hx)
  new x hx := by
    rcases g.new x hx with hx | hx
    · exact h.new x hx
    · rw [h.epoch] at hx
      exact .inr hx
  epoch := g.epoch.trans h.epoch
  latched c hc := g.latched c (h.latched c hc)
  frame := by
    have frame := g.frame
    rw [h.frame] at frame
    exact frame

/-- What touches neither the queue nor the flags. -/
theorem still (h : Adds p s t) (queued : u.tx.queued = t.tx.queued) (epoch : u.tx.epoch = t.tx.epoch)
    (latched : u.notices.latched = t.notices.latched)
    (frame : u = { t with
      boxes := u.boxes
      tx := u.tx
      bus := u.bus
      notices := { u.notices with enabled := t.notices.enabled, sequence := t.notices.sequence }
      counters := { t.counters with live := u.counters.live }
      restartDue := u.restartDue }) : Adds p s u :=
  h.trans ⟨fun _ hx => queued ▸ hx, fun _ hx => .inl (queued ▸ hx), epoch, fun _ hc => latched ▸ hc, frame⟩

theorem count (h : Adds p s t) (k : Fin 111) : Adds p s (t.count k) := h.still rfl rfl rfl rfl

theorem setBox (h : Adds p s t) (m : Fin 32) (b : Runtime) : Adds p s (t.setBox m b) := h.still rfl rfl rfl rfl

theorem place (h : Adds p s t) {o : Owner} (ho : p o) : Adds p s (t.place o) := by
  refine h.trans ⟨fun x hx => mem_insertEntry.mpr (.inr hx), fun x hx => ?_, rfl, fun _ hc => hc, rfl⟩
  rcases mem_insertEntry.mp hx with rfl | hx
  · refine .inr ⟨rfl, ?_, ho⟩
    dsimp only
    omega
  · exact .inl hx

theorem offer (h : Adds p s t) (hp : p .notice) : Adds p s t.offer := by
  unfold State.offer
  split
  · exact h.still rfl rfl rfl rfl
  · split
    · exact h
    · exact (h.place hp).still rfl rfl rfl rfl

theorem latch (h : Adds p s t) (hp : p .notice) (c : Condition) : Adds p s (t.latch c) := by
  have flagged : Adds p t { t with notices := { t.notices with latched := t.notices.latched ||| c.bit } } :=
    ⟨fun _ hx => hx, fun _ hx => .inl hx, rfl, fun d hd => by rw [Condition.isIn_or, hd]; rfl, rfl⟩
  unfold State.latch
  dsimp only
  split
  · exact h
  · split
    · exact (h.trans flagged).offer hp
    · exact h.trans flagged

theorem markAttention (h : Adds p s t) (hp : p .notice) (m : Fin 32) : Adds p s (t.markAttention m) := by
  have marked : Adds p s { t with notices := { t.notices with
      attention := t.notices.attention ||| BitVec.twoPow 32 m.val } } := h.still rfl rfl rfl rfl
  rw [markAttention_eq]
  split
  · split
    · exact marked.latch hp _
    · exact marked
  · exact h

theorem noticeLeaves (h : Adds p s t) (hp : p .notice) : Adds p s t.noticeLeaves := by
  have offered : Adds p s { t with notices := { t.notices with deferred := false } } := h.still rfl rfl rfl rfl
  unfold State.noticeLeaves
  split
  · exact offered.offer hp
  · exact h

theorem replyLeaves (h : Adds p s t) (k : Fin 4) : Adds p s (t.replyLeaves k) := by
  rw [replyLeaves_eq]
  exact h.still rfl rfl rfl rfl

theorem retire (h : Adds p s t) (hp : ∀ o, p o) (m : Fin 32) : Adds p s (t.retire m) := by
  unfold State.retire
  split
  · exact h.place (hp _)
  · exact h

theorem reportLeaves (h : Adds p s t) (hp : ∀ o, p o) (m : Fin 32) : Adds p s (t.reportLeaves m) := by
  unfold State.reportLeaves
  dsimp only
  split
  · exact (h.setBox m _).place (hp _)
  · exact h.setBox m _

theorem silencedBy (h : Adds p s t) (hp : p .notice) (n : Nat) : Adds p s (t.silencedBy n) := by
  have silenced : Adds p s (State.count Counter.silentEntries { t with bus := { t.bus with port := .silent, goods := 0 } }) :=
    h.still rfl rfl rfl rfl
  unfold State.silencedBy
  split
  · exact silenced.latch hp _
  · exact h

theorem hasQueued (h : Adds p s t) {q : Owner → Bool} (hq : s.hasQueued q = true) : t.hasQueued q = true := by
  obtain ⟨x, hx, hxq⟩ := List.any_eq_true.mp hq
  exact List.any_eq_true.mpr ⟨x, h.kept x hx, hxq⟩

theorem sequence (h : Adds p s t) : t.notices.sequence = s.notices.sequence := by
  rw [h.frame]

end Adds

/-! ### Entry into SILENT (07, R120) -/

@[simp] theorem silencedBy_frame (n : Nat) (s : State) :
    (s.silencedBy n).boxes = s.boxes ∧ (s.silencedBy n).restartDue = s.restartDue ∧
      (s.silencedBy n).tx.replies = s.tx.replies ∧ (s.silencedBy n).notices.attention = s.notices.attention ∧
      (s.silencedBy n).bus.flight = s.bus.flight ∧ (s.silencedBy n).bus.line = s.bus.line := by
  unfold State.silencedBy
  split
  · unfold State.enterSilent
    rw [latch_replies, latch_notices]
    simp
  · simp

theorem silencedBy_live {k : Fin 111} (hk : k ≠ 106) (n : Nat) (s : State) : (s.silencedBy n).live k = s.live k := by
  unfold State.silencedBy
  split
  · exact (live_congr (by simp [State.enterSilent]; rfl) k).trans (count_live_other (k := 106) hk s)
  · rfl

/-! ### Offers while nothing is in flight (10, R176) -/

/-- With nothing in flight an offer is not deferred, and leaves a NOTICE entry queued. -/
theorem offer_of_landed {s : State} (h : s.inFlight = none) :
    s.offer.notices.deferred = s.notices.deferred ∧ s.offer.hasQueued Owner.isNotice = true := by
  have absent : s.hasInFlight Owner.isNotice = false := by rw [State.hasInFlight, h]; rfl
  by_cases queued : s.hasQueued Owner.isNotice = true
  · have same : s.offer = s := by
      unfold State.offer
      rw [absent, queued]
      rfl
    rw [same]
    exact ⟨rfl, queued⟩
  · rw [offer_of_absent (Bool.eq_false_iff.mpr queued) absent]
    exact ⟨rfl, List.any_eq_true.mpr ⟨_, mem_insertEntry.mpr (.inl rfl), rfl⟩⟩

/-- A condition event makes an offer: the flag is newly set and enabled (10, R176). -/
def State.makesOffer (c : Condition) (s : State) : Prop :=
  c.isIn s.notices.latched = false ∧ c.isIn s.notices.enabled = true

theorem latch_of_offer {c : Condition} {s : State} (h : s.makesOffer c) : s.latch c =
    State.offer { s with notices := { s.notices with latched := s.notices.latched ||| c.bit } } := by
  unfold State.latch
  rw [if_neg (Bool.eq_false_iff.mp h.1)]
  exact if_pos h.2

theorem latch_of_no_offer {c : Condition} {s : State} (h : ¬ s.makesOffer c) :
    (s.latch c).tx = s.tx ∧ (s.latch c).notices.deferred = s.notices.deferred := by
  unfold State.latch
  dsimp only
  split
  · exact ⟨rfl, rfl⟩
  · rename_i clear
    rw [if_neg fun enabled => h ⟨Bool.eq_false_iff.mpr clear, enabled⟩]
    exact ⟨rfl, rfl⟩

theorem latch_deferred_of_landed {s : State} (h : s.inFlight = none) (c : Condition) :
    (s.latch c).notices.deferred = s.notices.deferred := by
  by_cases offers : s.makesOffer c
  · rw [latch_of_offer offers]
    exact (offer_of_landed (s := { s with notices := { s.notices with latched := s.notices.latched ||| c.bit } }) h).1
  · exact (latch_of_no_offer offers).2

theorem latch_hasQueued_of_landed {s : State} (h : s.inFlight = none) {c : Condition} (offers : s.makesOffer c) :
    (s.latch c).hasQueued Owner.isNotice = true := by
  rw [latch_of_offer offers]
  exact (offer_of_landed (s := { s with notices := { s.notices with latched := s.notices.latched ||| c.bit } }) h).2

/-- As a NOTICE entry leaves, what was deferred is offered, and nothing stays deferred. -/
theorem noticeLeaves_of_landed {s : State} (h : s.inFlight = none) : s.noticeLeaves.notices.deferred = false ∧
    (s.notices.deferred = true → s.noticeLeaves.hasQueued Owner.isNotice = true) := by
  unfold State.noticeLeaves
  split
  · obtain ⟨kept, queued⟩ := offer_of_landed (s := { s with notices := { s.notices with deferred := false } }) h
    exact ⟨kept, fun _ => queued⟩
  · rename_i undeferred
    exact ⟨Bool.eq_false_iff.mpr undeferred, fun deferred => absurd deferred undeferred⟩

theorem silencedBy_deferred {s : State} (h : s.inFlight = none) (n : Nat) :
    (s.silencedBy n).notices.deferred = s.notices.deferred := by
  unfold State.silencedBy
  split
  · exact latch_deferred_of_landed (s := State.count Counter.silentEntries
      { s with bus := { s.bus with port := .silent, goods := 0 } }) h .busSilent
  · rfl

/-! ### The abandon (06, R106) -/

/-- The part as an abandon is counted and latched, its owner still to be told. -/
def State.abandonTold (s : State) : State := (s.count Counter.abandons).latch .txAbandon

section
variable {e : Entry} {s : State}

theorem abandonEntry_current {m : Fin 32} (h : e.owner = .report m (s.box m).generation) :
    s.abandonEntry e = s.abandonTold.abandonReport m := by
  have box : ((s.count Counter.abandons).latch .txAbandon).box m = s.box m := box_congr (by simp) m
  simp only [State.abandonEntry, h, box, if_true]
  rfl

theorem abandonEntry_old {m : Fin 32} {g : Byte} (h : e.owner = .report m g) (hg : g ≠ (s.box m).generation) :
    s.abandonEntry e = s.abandonTold.retire m := by
  have box : ((s.count Counter.abandons).latch .txAbandon).box m = s.box m := box_congr (by simp) m
  simp only [State.abandonEntry, h, box, if_neg hg]
  rfl

theorem abandonEntry_reply {k : Fin 4} (h : e.owner = .reply k) :
    s.abandonEntry e = (s.abandonTold.count Counter.repliesLost).replyLeaves k := by
  simp only [State.abandonEntry, h]
  rfl

theorem abandonEntry_notice (h : e.owner = .notice) : s.abandonEntry e = s.abandonTold.noticeLeaves := by
  simp only [State.abandonEntry, h]
  rfl

theorem abandonEntry_discovery (h : e.owner = .discovery) : s.abandonEntry e = s.abandonTold := by
  simp only [State.abandonEntry, h]
  rfl

end

theorem abandonTold_adds {p : Owner → Prop} (hp : p .notice) (s : State) : Adds p s s.abandonTold :=
  ((Adds.refl p s).count _).latch hp _

theorem abandonTold_box (m : Fin 32) (s : State) : s.abandonTold.box m = s.box m :=
  box_congr (by simp [State.abandonTold]) m

theorem abandonTold_live {k : Fin 111} (hk : k ≠ 105) (s : State) : s.abandonTold.live k = s.live k :=
  (live_congr (by simp [State.abandonTold]) k).trans (count_live_other (k := Counter.abandons) hk s)

theorem abandonTold_live_self (s : State) : s.abandonTold.live 105 = satSucc (s.live 105) :=
  (live_congr (by simp [State.abandonTold]; rfl) 105).trans (count_live_self 105 s)

theorem abandonTold_inFlight (s : State) : s.abandonTold.inFlight = s.inFlight :=
  inFlight_congr (by simp [State.abandonTold])

/-- An abandon of any kind and generation adds entries, and latches TX_ABANDON. -/
theorem abandonEntry_adds (e : Entry) (s : State) : Adds (fun _ => True) s.abandonTold (s.abandonEntry e) := by
  have told := Adds.refl (fun _ => True) s.abandonTold
  cases ho : e.owner with
  | report m g =>
    by_cases hg : g = (s.box m).generation
    · rw [abandonEntry_current (hg ▸ ho)]
      exact ((told.count _).markAttention trivial m).reportLeaves (fun _ => trivial) m
    · rw [abandonEntry_old ho hg]
      exact told.retire (fun _ => trivial) m
  | reply k =>
    rw [abandonEntry_reply ho]
    exact (told.count _).replyLeaves k
  | notice =>
    rw [abandonEntry_notice ho]
    exact told.noticeLeaves trivial
  | discovery =>
    rw [abandonEntry_discovery ho]
    exact told

/-! ### What the abandon of a report leaves of its mailbox (05, R89) -/

/-- What a report that leaves without completing makes of its mailbox. -/
def Runtime.abandoned (b : Runtime) : Runtime := { b with
  state := if b.again then .pending else .quiet
  captured := none }

theorem reportLeaves_boxes (m : Fin 32) (s : State) :
    (s.reportLeaves m).boxes = (s.setBox m (s.box m).abandoned).boxes := by
  unfold State.reportLeaves Runtime.abandoned
  dsimp only
  split <;> rfl

theorem reportLeaves_placed {m : Fin 32} {s : State} (h : (s.box m).again = true) :
    ∃ x ∈ (s.reportLeaves m).tx.queued, x.owner = .report m (s.box m).generation ∧ x.attempts = 0 := by
  unfold State.reportLeaves
  dsimp only
  rw [if_pos h]
  exact ⟨_, mem_insertEntry.mpr (.inl rfl), by simp, rfl⟩

theorem retire_pending {m : Fin 32} {s : State} (h : (s.box m).state = .pending) :
    ∃ x ∈ (s.retire m).tx.queued, x.owner = .report m (s.box m).generation ∧ x.attempts = 0 := by
  rw [State.retire, if_pos h]
  exact ⟨_, mem_insertEntry.mpr (.inl rfl), rfl, rfl⟩

/-- Everything an abandon of a current report does to its mailbox. -/
structure ReportAbandoned (m : Fin 32) (s t : State) : Prop where
  boxes : t.boxes = (s.setBox m (s.box m).abandoned).boxes
  counters : t.counters = (s.count (counterC m)).counters
  attention : (s.config m).attention = true → t.notices.attention.getLsbD m.val = true
  placed : (s.box m).again = true →
    ∃ x ∈ t.tx.queued, x.owner = .report m (s.box m).generation ∧ x.attempts = 0

theorem abandonReport_abandons (m : Fin 32) (s : State) : ReportAbandoned m s (s.abandonReport m) := by
  have box : ((s.count (counterC m)).markAttention m).box m = s.box m := box_congr (by simp) m
  refine ⟨?_, by simp [State.abandonReport], fun enabled => ?_, fun again => ?_⟩
  · rw [State.abandonReport, reportLeaves_boxes, box]
    simp [State.setBox]
  · have notices : (s.abandonReport m).notices = ((s.count (counterC m)).markAttention m).notices := by
      simp [State.abandonReport]
    rw [notices, markAttention_attention m (s.count (counterC m)) enabled]
    simp [m.isLt]
  · have placed := reportLeaves_placed (m := m) (s := (s.count (counterC m)).markAttention m) (by rw [box]; exact again)
    rwa [box] at placed

theorem ReportAbandoned.box_self {m : Fin 32} {s t : State} (h : ReportAbandoned m s t) :
    t.box m = (s.box m).abandoned :=
  (box_congr h.boxes m).trans (setBox_box_self m _ s)

theorem ReportAbandoned.box_other {m j : Fin 32} {s t : State} (h : ReportAbandoned m s t) (hj : j ≠ m) :
    t.box j = s.box j :=
  (box_congr h.boxes j).trans (setBox_box_other hj _ s)

theorem ReportAbandoned.live {m : Fin 32} {s t : State} (h : ReportAbandoned m s t) (k : Fin 111) :
    t.live k = (s.count (counterC m)).live k :=
  live_congr h.counters k

/-- A mailbox whose report is not abandoned keeps everything (05, R89, R90). -/
theorem abandonEntry_box_other {e : Entry} {j : Fin 32} (h : e.owner.isReportOf j = false) (s : State) :
    (s.abandonEntry e).box j = s.box j := by
  cases ho : e.owner with
  | report m g =>
    rw [ho] at h
    by_cases hg : g = (s.box m).generation
    · have other : j ≠ m := fun hj => by simp [Owner.isReportOf, hj] at h
      rw [abandonEntry_current (hg ▸ ho), (abandonReport_abandons m _).box_other other, abandonTold_box]
    · rw [abandonEntry_old ho hg, box_congr (s := s.abandonTold) (by simp), abandonTold_box]
  | reply k => rw [abandonEntry_reply ho, box_congr (s := s.abandonTold) (by simp), abandonTold_box]
  | notice => rw [abandonEntry_notice ho, box_congr (s := s.abandonTold) (by simp), abandonTold_box]
  | discovery => rw [abandonEntry_discovery ho, abandonTold_box]

/-- The whole-part counters but 105 and 110 are none of an abandon's. -/
theorem abandonEntry_live_high {k : Fin 111} (hk : 96 ≤ k.val) (hr : k ≠ 110) (e : Entry) (s : State) :
    (s.abandonEntry e).live k = s.abandonTold.live k := by
  cases ho : e.owner with
  | report m g =>
    by_cases hg : g = (s.box m).generation
    · have other : k ≠ counterC m := by
        simp only [counterC, ne_eq, Fin.ext_iff]
        omega
      rw [abandonEntry_current (hg ▸ ho), (abandonReport_abandons m _).live, count_live_other other]
    · rw [abandonEntry_old ho hg]
      exact live_congr (by simp) k
  | reply j =>
    rw [abandonEntry_reply ho]
    exact (live_congr (by simp) k).trans (count_live_other (k := Counter.repliesLost) hr _)
  | notice =>
    rw [abandonEntry_notice ho]
    exact live_congr (by simp) k
  | discovery => rw [abandonEntry_discovery ho]

/-! ### The error that uses the last attempt (06, R104, R106; 07, R118, R120) -/

/-- What a transmit error leaves that uses the last attempt of the entry in flight. -/
def State.lastError (e : Entry) (u : State) : State := (u.attemptFailed.abandonEntry e).silencedBy (u.bus.errors + 1)

theorem exec_transmitError_last {time : Nat} {e : Entry} {f : Frame} {s : State} (ht : s.inTime (16 * time))
    (hf : (s.found (16 * time)).bus.flight = some (.attempt e f))
    (last : (s.found (16 * time)).active.profile.retryLimit ≤ e.attempts + 1) :
    exec (.transmitError time) s = .next ((s.found (16 * time)).lastError e) := by
  rw [exec_transmitError ht hf]
  exact congrArg (fun x => Host.Outcome.next (State.silencedBy ((s.found (16 * time)).bus.errors + 1) x))
    (if_neg (Nat.not_lt.mpr last))

/-- The counters of the mailboxes are none of the whole part's (10, R184). -/
theorem ne_of_low {k j : Fin 111} (hk : k.val < 96) (hj : 96 ≤ j.val) : k ≠ j := by
  rintro rfl
  omega

theorem attemptFailed_live {k : Fin 111} (hk : k ≠ 104) (u : State) : u.attemptFailed.live k = u.live k :=
  count_live_other hk u

section
variable (e : Entry) (u : State)

theorem lastError_bus (short : u.bus.errors + 1 ≠ 32) :
    (u.lastError e).bus = { u.bus with line := .idle, flight := none, errors := u.bus.errors + 1 } := by
  rw [State.lastError, silencedBy_other short]
  simp [State.attemptFailed]

theorem lastError_live {k : Fin 111} (hk : k ≠ 106) : (u.lastError e).live k = (u.attemptFailed.abandonEntry e).live k :=
  silencedBy_live hk _ _

theorem lastError_box (m : Fin 32) : (u.lastError e).box m = (u.attemptFailed.abandonEntry e).box m :=
  box_congr (by simp [State.lastError]) m

theorem lastError_reply (k : Fin 4) : (u.lastError e).reply k = (u.attemptFailed.abandonEntry e).reply k := by
  have replies : (u.lastError e).tx.replies = (u.attemptFailed.abandonEntry e).tx.replies := by simp [State.lastError]
  simp only [State.reply, replies]

/-- Counters 104 and 105 count the error and the abandon (10, R184). -/
theorem lastError_counts : (u.lastError e).live 104 = satSucc (u.live 104) ∧
    (u.lastError e).live 105 = satSucc (u.live 105) := by
  refine ⟨?_, ?_⟩
  · rw [lastError_live e u (by decide), abandonEntry_live_high (by decide) (by decide), abandonTold_live (by decide)]
    exact count_live_self 104 u
  · rw [lastError_live e u (by decide), abandonEntry_live_high (by decide) (by decide), abandonTold_live_self,
      attemptFailed_live (by decide)]

/-- What the abandon adds, and then the entry into SILENT. -/
theorem lastError_adds_told : Adds (fun _ => True) u.attemptFailed.abandonTold (u.lastError e) :=
  (abandonEntry_adds e u.attemptFailed).silencedBy trivial _

theorem lastError_adds : Adds (fun _ => True) u.attemptFailed (u.lastError e) :=
  (abandonTold_adds trivial u.attemptFailed).trans (lastError_adds_told e u)

theorem lastError_latched : Condition.txAbandon.isIn (u.lastError e).notices.latched = true :=
  (lastError_adds_told e u).latched _ (latch_isIn_self _ _)

/-- What is queued as the abandon is done is so after the entry into SILENT. -/
theorem lastError_kept : ∀ x ∈ (u.attemptFailed.abandonEntry e).tx.queued, x ∈ (u.lastError e).tx.queued :=
  ((Adds.refl (fun _ => True) (u.attemptFailed.abandonEntry e)).silencedBy trivial _).kept

theorem lastError_attention :
    (u.lastError e).notices.attention = (u.attemptFailed.abandonEntry e).notices.attention := by
  simp [State.lastError]

end

/-- The counters of the mailboxes as the owner is told (10, R184). -/
theorem told_live_low {k : Fin 111} (hk : k.val < 96) (u : State) : u.attemptFailed.abandonTold.live k = u.live k := by
  rw [abandonTold_live (ne_of_low hk (by decide)), attemptFailed_live (ne_of_low hk (by decide))]

theorem told_box (m : Fin 32) (u : State) : u.attemptFailed.abandonTold.box m = u.box m := abandonTold_box m _

theorem told_attention (u : State) : u.attemptFailed.abandonTold.notices.attention = u.notices.attention := by
  rw [State.abandonTold, latch_notices]
  rfl

section
variable {e : Entry} {u : State}

/-- The abandon of a report of the current generation (05, R89). -/
theorem lastError_current {m : Fin 32} (ho : e.owner = .report m (u.box m).generation) :
    (u.lastError e).box m = (u.box m).abandoned ∧
      (u.lastError e).live (counterC m) = satSucc (u.live (counterC m)) ∧
      (u.lastError e).live (counterA m) = u.live (counterA m) ∧
      (u.lastError e).live (counterB m) = u.live (counterB m) ∧
      ((u.config m).attention = true → (u.lastError e).notices.attention.getLsbD m.val = true) ∧
      ((u.box m).again = true →
        ∃ x ∈ (u.lastError e).tx.queued, x.owner = .report m (u.box m).generation ∧ x.attempts = 0) := by
  have h := abandonReport_abandons m u.attemptFailed.abandonTold
  rw [← abandonEntry_current (s := u.attemptFailed) ho] at h
  have lowA : (counterA m).val < 96 := by simp only [counterA]; omega
  have lowB : (counterB m).val < 96 := by simp only [counterB]; omega
  have lowC : (counterC m).val < 96 := by simp only [counterC]; omega
  have untouched {k : Fin 111} (hk : k.val < 96) (hC : k ≠ counterC m) : (u.lastError e).live k = u.live k := by
    rw [lastError_live e u (ne_of_low hk (by decide)), h.live, count_live_other hC, told_live_low hk]
  refine ⟨?_, ?_, untouched lowA ?_, untouched lowB ?_, fun enabled => ?_, fun again => ?_⟩
  · rw [lastError_box, h.box_self, told_box]
  · rw [lastError_live e u (ne_of_low lowC (by decide)), h.live, count_live_self, told_live_low lowC]
  · simp [counterA, counterC]
  · simp [counterB, counterC]
  · have config : u.attemptFailed.abandonTold.config m = u.config m :=
      config_congr (by simp [State.abandonTold, State.attemptFailed]) m
    rw [lastError_attention]
    exact h.attention (config ▸ enabled)
  · obtain ⟨x, hx, owner, attempts⟩ := h.placed (by rw [told_box]; exact again)
    exact ⟨x, lastError_kept e u x hx, by rw [owner, told_box], attempts⟩

/-- The retirement of a report of an older generation (05, R90; 06, R108). -/
theorem lastError_old {m : Fin 32} {g : Byte} (ho : e.owner = .report m g) (hg : g ≠ (u.box m).generation) :
    (u.lastError e).boxes = u.boxes ∧ (∀ k : Fin 111, k.val < 96 → (u.lastError e).live k = u.live k) ∧
      (u.lastError e).notices.attention = u.notices.attention ∧
      ((u.box m).state = .pending →
        ∃ x ∈ (u.lastError e).tx.queued, x.owner = .report m (u.box m).generation ∧ x.attempts = 0) := by
  have retires := abandonEntry_old (s := u.attemptFailed) ho hg
  refine ⟨?_, fun k hk => ?_, ?_, fun pending => ?_⟩
  · have boxes : (u.lastError e).boxes = (u.attemptFailed.abandonEntry e).boxes := by simp [State.lastError]
    rw [boxes, retires]
    simp [State.abandonTold, State.attemptFailed]
  · rw [lastError_live e u (ne_of_low hk (by decide)), retires,
      live_congr (s := u.attemptFailed.abandonTold) (by simp), told_live_low hk]
  · rw [lastError_attention, retires, retire_eq]
    exact told_attention u
  · obtain ⟨x, hx, owner, attempts⟩ := retire_pending (m := m) (s := u.attemptFailed.abandonTold)
      (by rw [told_box]; exact pending)
    rw [← retires] at hx
    exact ⟨x, lastError_kept e u x hx, by rw [owner, told_box], attempts⟩

/-- An abandoned reply is lost (06, R106; 08, R146). -/
theorem lastError_lost {k : Fin 4} (ho : e.owner = .reply k) :
    (u.lastError e).live 110 = satSucc (u.live 110) ∧ ((u.lastError e).reply k).status = .free ∧
      (u.engine.waiting = some k → (u.lastError e).restartDue = true) := by
  have leaves := abandonEntry_reply (s := u.attemptFailed) ho
  refine ⟨?_, ?_, fun waits => ?_⟩
  · have counters : (u.attemptFailed.abandonEntry e).counters = (u.attemptFailed.abandonTold.count 110).counters := by
      rw [leaves, replyLeaves_eq]
      rfl
    rw [lastError_live e u (by decide), live_congr counters, count_live_self, abandonTold_live (by decide),
      attemptFailed_live (by decide)]
  · rw [lastError_reply, leaves, replyLeaves_reply, if_pos rfl]
    rfl
  · have engine : (u.attemptFailed.abandonTold.count Counter.repliesLost).engine = u.engine := by
      simp [State.abandonTold, State.attemptFailed]
    have due : (u.lastError e).restartDue = (u.attemptFailed.abandonEntry e).restartDue := by simp [State.lastError]
    rw [due, leaves, replyLeaves_restartDue, engine, decide_eq_true waits, Bool.or_true]

/-- An abandoned notice keeps its sequence number, and makes room for the offers it has held back (10, R176; log 29). -/
theorem lastError_notice (ho : e.owner = .notice) : (u.lastError e).notices.deferred = false ∧
    (u.notices.deferred = true ∨ u.makesOffer .txAbandon → (u.lastError e).hasQueued Owner.isNotice = true) ∧
      (u.notices.deferred = false → ¬ u.makesOffer .txAbandon → u.bus.errors + 1 ≠ 32 → (u.lastError e).tx = u.tx) := by
  have landed : u.attemptFailed.inFlight = none := rfl
  have told : u.attemptFailed.abandonTold.inFlight = none := (abandonTold_inFlight _).trans landed
  have deferred : u.attemptFailed.abandonTold.notices.deferred = u.notices.deferred :=
    latch_deferred_of_landed (s := u.attemptFailed.count Counter.abandons) landed .txAbandon
  have leaves := abandonEntry_notice (s := u.attemptFailed) ho
  obtain ⟨cleared, placed⟩ := noticeLeaves_of_landed told
  refine ⟨?_, fun offered => ?_, fun kept silent short => ?_⟩
  · rw [State.lastError, leaves, silencedBy_deferred ((inFlight_congr (by simp)).trans told)]
    exact cleared
  · rcases offered with held | offers
    · have queued := placed (deferred.trans held)
      rw [← leaves] at queued
      exact ((Adds.refl (fun _ => True) (u.attemptFailed.abandonEntry e)).silencedBy trivial _).hasQueued queued
    · exact (lastError_adds_told e u).hasQueued
        (latch_hasQueued_of_landed (s := u.attemptFailed.count Counter.abandons) landed offers)
  · rw [State.lastError, silencedBy_other short, leaves, noticeLeaves_of_undeferred (deferred.trans kept)]
    exact (latch_of_no_offer (s := u.attemptFailed.count Counter.abandons) silent).1

/-- An abandoned discovery reply only leaves; the two condition events may place a notice (06, R106; 10, R176). -/
theorem lastError_discovery (ho : e.owner = .discovery) : (u.lastError e).tx.replies = u.tx.replies ∧
    ∀ x ∈ (u.lastError e).tx.queued, x ∈ u.tx.queued ∨ x.owner = .notice := by
  have only : Adds (fun o => o = .notice) u.attemptFailed (u.lastError e) := by
    rw [State.lastError, abandonEntry_discovery ho]
    exact (abandonTold_adds (p := fun o => o = .notice) rfl _).silencedBy rfl _
  refine ⟨?_, fun x hx => ?_⟩
  · have replies : (u.lastError e).tx.replies = u.attemptFailed.abandonTold.tx.replies := by
      simp [State.lastError, abandonEntry_discovery ho]
    rw [replies, State.abandonTold, latch_replies]
    rfl
  · rcases only.new x hx with queued | ⟨-, -, notice⟩
    · exact .inl queued
    · exact .inr notice

end

/-- The entry in flight was placed before the event that finds it there (06, R98). -/
theorem found_flight_stamp {t : Nat} {e : Entry} {f : Frame} {s : State} (law : (s.ripe t).queueLaw)
    (hf : (s.found t).bus.flight = some (.attempt e f)) : e.stamp < 64 * (s.found t).tx.epoch := by
  obtain ⟨-, flying, -⟩ := law
  rw [found_tx]
  exact flying e (by simp [State.inFlight, ripe_flight hf])

/-- Settles O15: what the event adds at any owner, and what it does to the owner of the entry. -/
theorem lastErrorAbandonsTheEntry : Obligations.LastErrorAbandonsTheEntry := by
  intro time e f s ht u offers hf last
  have adds := lastError_adds e u
  obtain ⟨errors, abandons⟩ := lastError_counts e u
  have joins (x : Entry) (hx : x ∈ (u.lastError e).tx.queued) :
      x ∈ u.tx.queued ∨ (x.attempts = 0 ∧ 64 * u.tx.epoch ≤ x.stamp) :=
    (adds.new x hx).imp_right fun ⟨attempts, stamp, _⟩ => ⟨attempts, stamp⟩
  refine ⟨_, exec_transmitError_last ht hf last, by simp [State.lastError, State.attemptFailed],
    by simp [State.lastError, State.attemptFailed], lastError_bus e u, errors, abandons, lastError_latched e u,
    fun law gone x hx => ?_, joins, adds.kept, fun m hm => ?_, fun m ho => lastError_current ho,
    fun m g ho hg => lastError_old ho hg, fun k ho => lastError_lost ho, fun ho => ?_, lastError_discovery, adds.frame⟩
  · rcases joins x hx with queued | ⟨-, stamp⟩
    · exact gone x queued
    · exact (Nat.lt_of_lt_of_le (found_flight_stamp law hf) stamp).ne'
  · rw [lastError_box, abandonEntry_box_other hm]
    rfl
  · obtain ⟨cleared, placed, quiet⟩ := lastError_notice ho
    exact ⟨cleared, adds.sequence, placed, quiet⟩

end Sys2Proof.Machine
end

section
/-! Another node's frame at the bus port (07, R113 to R115, R121, R122, R124): how it begins and how it ends, the class a
good one falls in, and what ends SILENT. -/

namespace Sys2Proof.Machine

/-! ### Its beginning and its end -/

theorem found_bus (t : Nat) (s : State) : (s.found t).bus = (s.ripe t).bus := by
  simp

theorem exec_frameStart {time : Nat} {s : State} (ht : s.inTime (16 * time))
    (idle : (s.found (16 * time)).bus.line = .idle) (clear : (s.found (16 * time)).bus.unheard = false) :
    exec (.frameStart time) s = .next (s.found (16 * time)).frameBegins := by
  rw [found_bus] at idle clear
  have free : (s.ripe (16 * time)).lineFree = true := by simp [State.lineFree, idle, clear]
  exact congrArg _ (atTime_of_occurs ht free)

theorem exec_frameArrival {time : Nat} {s : State} (ht : s.inTime (16 * time))
    (on : (s.found (16 * time)).bus.line = .receiving ∨ (s.found (16 * time)).bus.unheard = true) (r : Reception) :
    exec (.frameArrival time r) s = .next ((s.found (16 * time)).frameEnds r) := by
  rw [found_bus] at on
  have onBus : (s.ripe (16 * time)).frameOnBus = true := by simpa [State.frameOnBus] using on
  exact congrArg _ (atTime_of_occurs ht onBus)

theorem frameBegins_held {u : State} (held : u.held = true) :
    u.frameBegins = { u with bus := { u.bus with unheard := true } } :=
  if_pos held

theorem frameBegins_running {u : State} (running : u.held = false) :
    u.frameBegins = { u with bus := { u.bus with line := .receiving } } :=
  if_neg (by simp [running])

theorem frameEnds_unheard {u : State} (unheard : u.bus.unheard = true) (r : Reception) :
    u.frameEnds r = { u with bus := { u.bus with unheard := false } } :=
  if_pos unheard

/-- A reception error ends the run of good frames in SILENT (07, R113, R121). -/
theorem frameEnds_error {u : State} (heard : u.bus.unheard = false) : u.frameEnds .error = { u with
    bus := { u.bus with line := .idle, goods := if u.bus.port = .silent then 0 else u.bus.goods }
    counters := (u.count 102).counters } := by
  unfold State.frameEnds
  rw [heard]
  cases hp : u.bus.port <;> simp [State.receptionError, State.count, hp] <;> rfl

/-! ### The class of a good frame (07, R114) -/

/-- A request frame for this node (08, R126). -/
def State.addresses (f : Frame) (u : State) : Prop := u.engine.node ≠ 0 ∧ f.id.toNat = 0xF00 + u.engine.node.toNat

theorem resumesBus_iff (f : Frame) (u : State) :
    u.resumesBus f ↔ u.addresses f ∧ 2 ≤ f.count ∧ f.bytes.getD 0 0 = 0x18 := by
  simp only [State.resumesBus, State.addresses, and_assoc]

theorem requestId_toNat (n : BitVec 6) : (requestId n).toNat = 0xF00 + n.toNat := by
  have := n.isLt
  simp [requestId]
  omega

theorem addresses_iff (f : Frame) (u : State) : u.addresses f ↔ u.engine.node ≠ 0 ∧ f.id = requestId u.engine.node := by
  rw [State.addresses, ← requestId_toNat, BitVec.toNat_inj]

theorem not_traffic {f : Frame} (high : 0xF00 ≤ f.id.toNat) : ¬ f.id ≤ lastTraffic := by
  intro low
  have low' : f.id.toNat ≤ 0xEFF := low
  omega

theorem classify_broadcast {f : Frame} (broadcast : f.id = 0xF00) (s : State) : s.classify f = s.queueRequest true f := by
  unfold State.classify
  rw [if_neg (not_traffic (by rw [broadcast]; decide)), if_pos (show f.id = broadcastId from broadcast)]

theorem classify_request {f : Frame} {s : State} (own : s.addresses f) :
    s.classify f = (s.fastPath f).queueRequest false f := by
  obtain ⟨node, id⟩ := own
  have positive : s.engine.node.toNat ≠ 0 := fun zero => node (BitVec.eq_of_toNat_eq zero)
  have unshared : f.id ≠ broadcastId := by
    intro broadcast
    have : f.id.toNat = 0xF00 := by rw [broadcast]; rfl
    omega
  unfold State.classify
  rw [if_neg (not_traffic (by omega)), if_neg unshared, if_pos ((addresses_iff f s).mp ⟨node, id⟩)]

theorem classify_other {f : Frame} {s : State} (high : 0xF00 < f.id) (other : ¬ s.addresses f) : s.classify f = s := by
  have high' : 0xF00 < f.id.toNat := high
  have unshared : f.id ≠ broadcastId := by
    intro broadcast
    have : f.id.toNat = 0xF00 := by rw [broadcast]; rfl
    omega
  unfold State.classify
  rw [if_neg (not_traffic (by omega)), if_neg unshared, if_neg (mt (addresses_iff f s).mpr other)]

/-- Every frame is traffic, a broadcast, a request for this node or a frame of no interest (07, R114). -/
theorem frame_cases (f : Frame) (s : State) :
    f.id ≤ 0xEFF ∨ f.id = 0xF00 ∨ s.addresses f ∨ (0xF00 < f.id ∧ ¬ s.addresses f) := by
  by_cases own : s.addresses f
  · exact .inr (.inr (.inl own))
  · rcases Nat.lt_trichotomy f.id.toNat 0xF00 with low | broadcast | high
    · exact .inl (show f.id.toNat ≤ 0xEFF by omega)
    · exact .inr (.inl (BitVec.eq_of_toNat_eq broadcast))
    · exact .inr (.inr (.inr ⟨high, own⟩))

/-! ### The end of SILENT (07, R121, R122) -/

theorem leaveSilent_active {s : State} (port : s.bus.port = .active) : s.leaveSilent = s := by
  simp only [State.leaveSilent, port]

theorem leaveSilent_silent {s : State} (port : s.bus.port = .silent) : s.leaveSilent =
    State.latch .busResumed { s with bus := { s.bus with port := .active, errors := 0, goods := 0 } } := by
  simp only [State.leaveSilent, port]

theorem leaveSilent_bus_silent {s : State} (port : s.bus.port = .silent) :
    s.leaveSilent.bus = { s.bus with port := .active, errors := 0, goods := 0 } := by
  simp [leaveSilent_silent port]

/-- Of all good frames only a RESUME_BUS request touches the port by its class (07, R122). -/
theorem classify_bus_resuming {f : Frame} {s : State} (resume : s.resumesBus f) :
    (s.classify f).bus = s.leaveSilent.bus := by
  obtain ⟨own, fast⟩ := (resumesBus_iff f s).mp resume
  rw [classify_request own, State.fastPath, if_pos fast]
  simp

theorem classify_bus_other {f : Frame} {s : State} (other : ¬ s.resumesBus f) : (s.classify f).bus = s.bus := by
  rcases frame_cases f s with traffic | broadcast | own | ⟨high, foreign⟩
  · simp [classify_traffic traffic]
  · simp [classify_broadcast broadcast]
  · have slow : ¬ (2 ≤ f.count ∧ f.bytes.getD 0 0 = 0x18) := fun fast => other ((resumesBus_iff f s).mpr ⟨own, fast⟩)
    rw [classify_request own, State.fastPath, if_neg slow]
    simp
  · rw [classify_other high foreign]

/-! ### Flags are only set -/

theorem latch_isIn_kept {c : Condition} {s : State} (h : c.isIn s.notices.latched = true) (d : Condition) :
    c.isIn (s.latch d).notices.latched = true := by
  rw [latch_isIn, h]
  rfl

theorem offerToMatch_isIn_kept {c : Condition} {s : State} (h : c.isIn s.notices.latched = true) (f : Frame) :
    c.isIn (s.offerToMatch f).notices.latched = true := by
  have walks := offerToMatch_walks f s
  by_cases marks : s.notices.attention = 0 ∧
      ∃ m, s.takesFrame f m ∧ (s.box m).state = .fresh ∧ (s.config m).attention = true
  · obtain ⟨-, notices⟩ := walks.latched marks
    rw [notices]
    exact latch_isIn_kept h .attention
  · obtain ⟨-, notices⟩ := walks.unlatched marks
    rw [notices]
    exact h

theorem queueRequest_isIn_kept {c : Condition} {s : State} (h : c.isIn s.notices.latched = true) (broadcast : Bool)
    (f : Frame) : c.isIn (s.queueRequest broadcast f).notices.latched = true := by
  unfold State.queueRequest
  split
  · exact h
  · split
    · exact latch_isIn_kept (s := s.count Counter.requestsDropped) h .reqLost
    · exact h

theorem leaveSilent_isIn_kept {c : Condition} {s : State} (h : c.isIn s.notices.latched = true) :
    c.isIn s.leaveSilent.notices.latched = true := by
  cases port : s.bus.port with
  | active => rwa [leaveSilent_active port]
  | silent =>
    rw [leaveSilent_silent port]
    exact latch_isIn_kept (s := { s with bus := { s.bus with port := .active, errors := 0, goods := 0 } }) h .busResumed

theorem classify_isIn_kept {c : Condition} {s : State} (h : c.isIn s.notices.latched = true) (f : Frame) :
    c.isIn (s.classify f).notices.latched = true := by
  rcases frame_cases f s with traffic | broadcast | own | ⟨high, foreign⟩
  · rw [classify_traffic traffic]
    exact offerToMatch_isIn_kept h f
  · rw [classify_broadcast broadcast]
    exact queueRequest_isIn_kept h true f
  · rw [classify_request own, State.fastPath]
    split
    · exact queueRequest_isIn_kept (leaveSilent_isIn_kept h) false f
    · exact queueRequest_isIn_kept h false f
  · rwa [classify_other high foreign]

/-- A RESUME_BUS request found in SILENT latches BUS_RESUMED (07, R122). -/
theorem classify_resumed {f : Frame} {s : State} (port : s.bus.port = .silent) (resume : s.resumesBus f) :
    Condition.busResumed.isIn (s.classify f).notices.latched = true := by
  obtain ⟨own, fast⟩ := (resumesBus_iff f s).mp resume
  rw [classify_request own, State.fastPath, if_pos fast, leaveSilent_silent port]
  exact queueRequest_isIn_kept (latch_isIn_self _ _) false f

/-! ### Good frames in SILENT -/

theorem exec_frameArrival_good {time : Nat} {s : State} (ht : s.inTime (16 * time))
    (received : (s.found (16 * time)).receives) (f : Frame) :
    exec (.frameArrival time (.good f)) s = .next ((s.found (16 * time)).heard.classify f) := by
  obtain ⟨line, heard⟩ := received
  rw [exec_frameArrival ht (.inl line), frameEnds_good heard]

theorem Heard.resumesBus {u x : State} (h : Heard u x) (f : Frame) : x.resumesBus f ↔ u.resumesBus f := by
  rw [State.resumesBus, State.resumesBus, h.engine]

theorem Heard.addresses {u x : State} (h : Heard u x) (f : Frame) : x.addresses f ↔ u.addresses f := by
  rw [State.addresses, State.addresses, h.engine]

theorem Heard.line {u x : State} (h : Heard u x) : x.bus.line = .idle := by
  cases port : u.bus.port with
  | active => rw [h.active port]
  | silent =>
    by_cases last : u.lastGood
    · rw [h.resuming last]
    · rw [h.counting port last]

theorem Heard.btx_silent {u x : State} (h : Heard u x) (port : u.bus.port = .silent) : x.btx = u.btx := by
  rw [h.frame]
  simp [port]

/-- The class of a frame leaves the line and the frame in flight as the port has heard it. -/
theorem classify_line_flight (f : Frame) (s : State) :
    (s.classify f).bus.line = s.bus.line ∧ (s.classify f).bus.flight = s.bus.flight := by
  by_cases resume : s.resumesBus f
  · rw [classify_bus_resuming resume]
    cases port : s.bus.port with
    | active => rw [leaveSilent_active port]; exact ⟨rfl, rfl⟩
    | silent => rw [leaveSilent_bus_silent port]; exact ⟨rfl, rfl⟩
  · rw [classify_bus_other resume]
    exact ⟨rfl, rfl⟩

/-- Short of the 64th, a good frame in SILENT that is no RESUME_BUS request is counted by the port (07, R121). -/
theorem classify_heard_counting {f : Frame} {u : State} (port : u.bus.port = .silent) (short : u.bus.goods + 1 < 64)
    (other : ¬ u.resumesBus f) :
    (u.heard.classify f).bus = { u.bus with line := .idle, goods := u.bus.goods + 1 } := by
  have h := heard_hears u
  have early : ¬ u.lastGood := fun last => by
    obtain ⟨-, sixtyFour⟩ := last
    omega
  rw [classify_bus_other (mt (h.resumesBus f).mp other), h.counting port early]

/-- The 64th good frame in a row, and a RESUME_BUS request, make the port ACTIVE with BUS_RESUMED (07, R121, R122). -/
theorem classify_heard_resuming {f : Frame} {u : State} (port : u.bus.port = .silent)
    (ends : u.resumesBus f ∨ 64 ≤ u.bus.goods + 1) :
    (u.heard.classify f).bus = { u.bus with line := .idle, port := .active, errors := 0, goods := 0 } ∧
      Condition.busResumed.isIn (u.heard.classify f).notices.latched = true := by
  have h := heard_hears u
  by_cases last : u.lastGood
  · have ⟨_, sixtyFour⟩ := last
    have bus := h.resuming last
    have active : u.heard.bus.port = .active := by rw [bus]
    refine ⟨?_, classify_isIn_kept ?_ f⟩
    · by_cases resume : u.heard.resumesBus f
      · rw [classify_bus_resuming resume, leaveSilent_active active, bus]
      · rw [classify_bus_other resume, bus]
    · rw [heard_resuming port sixtyFour]
      exact latch_isIn_self _ _
  · have resume := (h.resumesBus f).mpr (ends.resolve_right fun sixtyFour => last ⟨port, sixtyFour⟩)
    have bus := h.counting port last
    have silent : u.heard.bus.port = .silent := by rw [bus]; exact port
    refine ⟨?_, classify_resumed silent resume⟩
    rw [classify_bus_resuming resume, leaveSilent_bus_silent silent, bus]

/-- Settles O10: a good frame in SILENT is heard, and then its class may still end SILENT. -/
theorem silentEnds : Obligations.SilentEnds := by
  intro time f s ht u resume received port
  have h := heard_hears u
  obtain ⟨line, flight⟩ := classify_line_flight f u.heard
  refine ⟨u.heard.classify f, exec_frameArrival_good ht received f, ?_, line.trans h.line, flight.trans h.flight,
    fun other short => ?_, fun ends => ?_⟩
  · have btx : (u.heard.classify f).btx = u.heard.btx := by simp
    rw [btx, h.btx_silent port]
  · rw [classify_heard_counting port short other]
    exact ⟨port, rfl, rfl⟩
  · obtain ⟨bus, latched⟩ := classify_heard_resuming port ends
    rw [bus]
    exact ⟨rfl, rfl, rfl, latched⟩

/-! ### Frames of no interest -/

/-- A good frame of no interest does what any good frame does, and latches nothing more (07, R113, R114, R121). -/
theorem Heard.hears_other {f : Frame} {u x : State} (h : Heard u x) (other : ¬ u.addresses f)
    (hc : u.conditionEvent [] .busResumed u.lastGood x) (c : Condition) : u.hears f c False x := by
  have unresumed : ¬ u.resumesBus f := fun resume => other ((resumesBus_iff f u).mp resume).1
  have ends : (u.bus.port = .silent ∧ (u.resumesBus f ∨ 64 ≤ u.bus.goods + 1)) ↔ u.lastGood := by
    simp only [State.lastGood, unresumed, false_or]
  have noted : u.conditionEvent [] .busResumed u.lastGood (u.noted x) :=
    conditionEvent_congr hc rfl (by rw [h.notices])
  have nothing : (u.noted x).conditionEvent [] c False x :=
    conditionEvent_none not_false ((placedInOrder_nil _ _).mpr rfl) (by rw [h.notices])
  simp only [State.hears, ends]
  exact ⟨h.active, h.resuming, h.counting, u.noted x, noted, nothing, rfl⟩

/-- Settles O7: a frame of no interest is only heard; an error and an unheard frame are not even that. -/
theorem receptionOfOtherFrames : Obligations.ReceptionOfOtherFrames := by
  refine ⟨?_, ?_, ?_⟩
  · intro time s ht u running idle clear
    rw [exec_frameStart ht idle clear, frameBegins_running running]
  · intro time s ht u received
    have h := heard_hears u
    have only {f : Frame} (high : 0xF00 < f.id) (other : ¬ u.addresses f) :
        exec (.frameArrival time (.good f)) s = .next u.heard := by
      rw [exec_frameArrival_good ht received, classify_other high (mt (h.addresses f).mp other)]
    refine ⟨fun f high other port => ?_, fun f high other port law => ?_, ?_⟩
    · rw [only high other, heard_active port]
    · refine ⟨u.heard, only high other, h.hears_other other (heard_conditionEvent (found_stamps law)) _, ?_⟩
      have frame := h.frame
      simp only [port, reduceCtorEq, if_false] at frame
      exact frame
    · obtain ⟨line, heard⟩ := received
      rw [exec_frameArrival ht (.inl line), frameEnds_error heard]
  · intro time r s ht u _ unheard
    rw [exec_frameArrival ht (.inr unheard), frameEnds_unheard unheard]

end Sys2Proof.Machine
end

section
/-! The assertion of NRESET, and what a held part still takes note of (07, R124; 04, R76; 03, R55; log 16, log 32). -/

namespace Sys2Proof.Machine

theorem exec_nresetAssert {time : Nat} {s : State} (ht : s.inTime (16 * time))
    (running : (s.found (16 * time)).held = false) :
    exec (.nresetAssert time) s = .next (s.found (16 * time)).assertReset := by
  have occurs : (!(s.ripe (16 * time)).held) = true := by simpa using running
  exact congrArg _ (atTime_of_occurs ht occurs)

/-- The whole of an assertion: the rounds are cut, and a frame in flight with them. -/
theorem assertReset_eq (u : State) : u.assertReset = { u with
    held := true
    ring := { u.ring with timer := none, inRound := none, outRound := none }
    bus := { u.bus with line := .idle, flight := none, unheard := u.bus.unheard || decide (u.bus.line = .receiving) }
    rout := u.routCut
    btx := if u.bus.flight = none then u.btx else u.btx ++ [.cut] } := by
  unfold State.assertReset
  rw [cutInbound_cutOutbound]
  cases flight : u.bus.flight <;> simp [flight, State.emitBus]

theorem found_windowClosed (t : Nat) (s : State) : (s.found t).windowClosed = (s.ripe t).windowClosed := by
  simp [State.found]

theorem markArrives_held {u : State} (held : u.held = true) (time : Nat) (m : RoundMark) (order : BoundaryOrder) :
    u.markArrives time m order = u :=
  if_pos held

/-- Settles O4: the assertion as a whole, and each event a held part may meet. -/
theorem assertedResetStopsTheLines : Obligations.AssertedResetStopsTheLines := by
  refine ⟨?_, ?_⟩
  · intro time s ht u running
    rw [exec_nresetAssert ht running, assertReset_eq]
  · intro time s ht u held
    refine ⟨fun unclosed m order => ?_, fun idle clear => ?_, fun unheard r => ?_, fun outside b => ⟨?_, ?_⟩⟩
    · rw [found_windowClosed] at unclosed
      rw [exec_roundMarkArrival ⟨ht, unclosed⟩, markArrives_held held]
    · rw [exec_frameStart ht idle clear, frameBegins_held held]
    · rw [exec_frameArrival ht (.inr unheard), frameEnds_unheard unheard]
    · have may : u.slotMayBegin = true := by simp [State.slotMayBegin, outside]
      rw [exec_incomingSlotStart ht may, slotBegins_outside outside]
    · have may : u.slotMayEnd = true := by simp [State.slotMayEnd, outside]
      rw [exec_slotArrival ht may, slotEnds_outside outside]

end Sys2Proof.Machine
end

section
/-! Two outcomes of an attempt: that of a finishing frame (07, R123), and the transmit error that is the 32nd in a row (07,
R118, R120; 06, R103, R104, R108; 10, R174, R176). -/

namespace Sys2Proof.Machine

/-! ### A finishing frame -/

theorem exec_finishingFrameOutcome {time : Nat} {f : Frame} {s : State} (ht : s.inTime (16 * time))
    (flight : (s.found (16 * time)).bus.flight = some (.finishing f)) (o : AttemptOutcome) :
    exec (.finishingFrameOutcome time o) s = .next ((s.found (16 * time)).endAttempt (lineAfter o)) := by
  have occurs : (s.ripe (16 * time)).finishing = true := by simp only [State.finishing, ripe_flight flight]
  exact congrArg _ (atTime_of_occurs ht occurs)

theorem lineAfter_eq (o : AttemptOutcome) : lineAfter o = if o = .arbitrationLost then .receiving else .idle := by
  cases o <;> rfl

/-- Settles O20: the attempt ends, and nothing hears of it. -/
theorem finishingOutcomeIsDiscarded : Obligations.FinishingOutcomeIsDiscarded := by
  intro time o f s ht u flight
  rw [exec_finishingFrameOutcome ht flight, lineAfter_eq]
  rfl

/-! ### What the queue makes of an error -/

theorem errorEntry_left {e : Entry} {s : State} (left : e.attempts + 1 < s.active.profile.retryLimit) :
    s.errorEntry e = s.returnEntry { e with attempts := e.attempts + 1 } :=
  if_pos left

theorem errorEntry_last {e : Entry} {s : State} (last : ¬ e.attempts + 1 < s.active.profile.retryLimit) :
    s.errorEntry e = s.abandonEntry { e with attempts := e.attempts + 1 } :=
  if_neg last

theorem returnEntry_eq (e : Entry) (s : State) : s.returnEntry e = { s with
    boxes := (s.returnEntry e).boxes
    tx := { s.tx with queued := (s.returnEntry e).tx.queued, replies := (s.returnEntry e).tx.replies } } := by
  unfold State.returnEntry
  split
  · split
    · rfl
    · rw [retire_eq]
  all_goals rfl

/-- All that the queue's taking of an error can change. -/
theorem errorEntry_eq (e : Entry) (s : State) : s.errorEntry e = { s with
    boxes := (s.errorEntry e).boxes
    tx := (s.errorEntry e).tx
    notices := { (s.errorEntry e).notices with enabled := s.notices.enabled, sequence := s.notices.sequence }
    counters := { s.counters with live := (s.errorEntry e).counters.live }
    restartDue := (s.errorEntry e).restartDue } := by
  by_cases left : e.attempts + 1 < s.active.profile.retryLimit
  · rw [errorEntry_left left, returnEntry_eq]
  · have bus : (s.errorEntry e).bus = s.bus := by simp
    have adds := (abandonTold_adds (p := fun _ => True) trivial s).trans
      (abandonEntry_adds { e with attempts := e.attempts + 1 } s)
    rw [← errorEntry_last left] at adds
    have frame := adds.frame
    rw [bus] at frame
    exact frame

/-- The whole-part counters but 105 and 110 are none of the queue's (10, R184). -/
theorem errorEntry_live_high {k : Fin 111} (high : 96 ≤ k.val) (h105 : k ≠ 105) (h110 : k ≠ 110) (e : Entry) (s : State) :
    (s.errorEntry e).live k = s.live k := by
  by_cases left : e.attempts + 1 < s.active.profile.retryLimit
  · rw [errorEntry_left left, returnEntry_eq]
    rfl
  · rw [errorEntry_last left, abandonEntry_live_high high h110, abandonTold_live h105]

/-! ### Entry into SILENT -/

/-- The part in SILENT, BUS_SILENT still to be latched (07, R120). -/
def State.silenced (s : State) : State := { s with
  bus := { s.bus with port := .silent, goods := 0 }
  counters := (s.count 106).counters }

/-- What the 32nd error in a row leaves: the queue takes the outcome, then the port goes SILENT with BUS_SILENT. -/
def State.silencedAfter (e : Entry) (u : State) : State := (u.attemptFailed.errorEntry e).silenced.latch .busSilent

theorem silencedBy_32 (e : Entry) (u : State) : (u.attemptFailed.errorEntry e).silencedBy 32 = u.silencedAfter e := rfl

theorem exec_transmitError_32 {time : Nat} {e : Entry} {f : Frame} {s : State} (ht : s.inTime (16 * time))
    (flight : (s.found (16 * time)).bus.flight = some (.attempt e f)) (errors : (s.found (16 * time)).bus.errors = 31) :
    exec (.transmitError time) s =
      .next ((s.found (16 * time)).silencedAfter e) := by
  rw [exec_transmitError ht flight, errors, silencedBy_32]

section
variable (e : Entry) (u : State)

theorem silencedAfter_bus (errors : u.bus.errors = 31) : (u.silencedAfter e).bus =
    { u.bus with port := .silent, line := .idle, flight := none, errors := 32, goods := 0 } := by
  simp [State.silencedAfter, State.silenced, State.attemptFailed, errors]

/-- Counters 106 and 104 count the entry into SILENT and the error (10, R184). -/
theorem silencedAfter_counts : (u.silencedAfter e).live 106 = satSucc (u.live 106) ∧
    (u.silencedAfter e).live 104 = satSucc (u.live 104) := by
  have counters : (u.silencedAfter e).counters = ((u.attemptFailed.errorEntry e).count 106).counters := by
    simp [State.silencedAfter, State.silenced]
  refine ⟨?_, ?_⟩
  · rw [live_congr counters, count_live_self, errorEntry_live_high (by decide) (by decide) (by decide),
      attemptFailed_live (by decide)]
  · rw [live_congr counters, count_live_other (by decide),
      errorEntry_live_high (by decide) (by decide) (by decide)]
    exact count_live_self 104 u

theorem silencedAfter_latched : Condition.busSilent.isIn (u.silencedAfter e).notices.latched = true :=
  latch_isIn_self _ _

/-- All that the 32nd error in a row can change. -/
theorem silencedAfter_eq : u.silencedAfter e = { u with
    boxes := (u.silencedAfter e).boxes
    tx := (u.silencedAfter e).tx
    bus := (u.silencedAfter e).bus
    notices := { (u.silencedAfter e).notices with enabled := u.notices.enabled, sequence := u.notices.sequence }
    counters := { u.counters with live := (u.silencedAfter e).counters.live }
    restartDue := (u.silencedAfter e).restartDue } := by
  rw [State.silencedAfter, latch_eq, errorEntry_eq]
  rfl

end

/-! ### An error with attempts left -/

/-- An entry that goes back, and a report placed anew, stand before the notice of their event (06, R98, R103). -/
theorem returnEntry_stamps {e : Entry} {s : State} (queued : ∀ x ∈ s.tx.queued, x.stamp < s.tx.epoch * 64)
    (flying : e.stamp < s.tx.epoch * 64) :
    ∀ x ∈ (s.returnEntry e).tx.queued, x.stamp < (s.returnEntry e).tx.epoch * 64 + 40 := by
  have back : ∀ x ∈ insertEntry e s.tx.queued, x.stamp < s.tx.epoch * 64 + 40 := by
    intro x hx
    rcases mem_insertEntry.mp hx with rfl | hx
    · exact Nat.lt_add_right 40 flying
    · exact Nat.lt_add_right 40 (queued x hx)
  unfold State.returnEntry
  split
  · split
    · exact back
    · exact retire_stamps queued
  all_goals exact back

/-- The part in SILENT with the entry gone back, BUS_SILENT still to be latched (06, R103; 07, R118, R120). -/
def State.returnedSilent (e : Entry) (u : State) : State :=
  (u.attemptFailed.returnEntry { e with attempts := e.attempts + 1 }).silenced

section
variable {e : Entry} {u : State}

theorem silencedAfter_left (left : e.attempts + 1 < u.active.profile.retryLimit) :
    u.silencedAfter e = (u.returnedSilent e).latch .busSilent := by
  rw [State.silencedAfter, errorEntry_left (s := u.attemptFailed) left]
  rfl

theorem returnedSilent_eq (errors : u.bus.errors = 31) : u.returnedSilent e = { u with
    boxes := (u.returnedSilent e).boxes
    tx := { u.tx with queued := (u.returnedSilent e).tx.queued, replies := (u.returnedSilent e).tx.replies }
    bus := { u.bus with port := .silent, line := .idle, flight := none, errors := 32, goods := 0 }
    counters := ((u.count 104).count 106).counters } := by
  have run : 32 = u.bus.errors + 1 := by rw [errors]
  rw [State.returnedSilent, returnEntry_eq, run]
  rfl

theorem returnedSilent_notices : (u.returnedSilent e).notices = u.notices := by
  rw [State.returnedSilent, returnEntry_eq]
  rfl

/-- A current entry is back at the position of its stamp, and its owner waits (06, R103; 05, R87). -/
theorem returnedSilent_current (current : u.isCurrent e)
    (sorted : u.tx.queued.Pairwise (fun a b => a.stamp ≤ b.stamp)) :
    State.ownerWaits e.owner u (u.returnedSilent e) ∧
      (u.returnedSilent e).tx.queued = Entry.putBack { e with attempts := e.attempts + 1 } u.tx.queued := by
  have back := returnEntry_back (e := { e with attempts := e.attempts + 1 }) (s := u.attemptFailed) current sorted
  exact ⟨ownerWaits_congr rfl rfl back.waits, back.queued⟩

/-- A report of an older generation is retired (05, R90; 06, R108). -/
theorem returnedSilent_old {m : Fin 32} {g : Byte} (ho : e.owner = .report m g) (hg : g ≠ (u.box m).generation)
    (queued : ∀ x ∈ u.tx.queued, x.stamp < u.tx.epoch * 64) :
    (u.returnedSilent e).boxes = u.boxes ∧ (u.returnedSilent e).tx.replies = u.tx.replies ∧
      u.placedInOrder (u.retirePlaces m) (u.returnedSilent e) := by
  have old : u.returnedSilent e = (u.attemptFailed.retire m).silenced := by
    rw [State.returnedSilent, returnEntry_of_old (s := u.attemptFailed) (e := { e with attempts := e.attempts + 1 }) ho hg]
  rw [old, retire_eq]
  exact ⟨rfl, rfl, retire_placed (s := u.attemptFailed) queued⟩

/-- BUS_SILENT has its condition event once the entry is back (07, R120; 10, R174, R176). -/
theorem returnedSilent_conditionEvent (queued : ∀ x ∈ u.tx.queued, x.stamp < u.tx.epoch * 64)
    (flying : e.stamp < u.tx.epoch * 64) :
    (u.returnedSilent e).conditionEvent [] .busSilent True ((u.returnedSilent e).latch .busSilent) :=
  conditionEvent_latch trivial ((placedInOrder_nil _ _).mpr rfl) (by simp) rfl
    (fun _ => returnEntry_stamps (s := u.attemptFailed) queued flying) rfl

/-- The condition event changes the notice unit as the event found it. -/
theorem returnedSilent_latch_eq (c : Condition) : (u.returnedSilent e).latch c = { u.returnedSilent e with
    tx := { (u.returnedSilent e).tx with queued := ((u.returnedSilent e).latch c).tx.queued }
    notices := { u.notices with
      latched := ((u.returnedSilent e).latch c).notices.latched
      deferred := ((u.returnedSilent e).latch c).notices.deferred
      repeatCount := ((u.returnedSilent e).latch c).notices.repeatCount } } := by
  have told := latch_eq c (u.returnedSilent e)
  rw [← latch_latched, returnedSilent_notices] at told
  exact told

end

/-- Settles O16: the queue takes the outcome, the port goes SILENT, and BUS_SILENT has its condition event. -/
theorem thirtySecondErrorSilencesThePort : Obligations.ThirtySecondErrorSilencesThePort := by
  intro time e f s ht u old flight errors
  obtain ⟨entries, failures⟩ := silencedAfter_counts e u
  have bus := silencedAfter_bus e u errors
  refine ⟨u.silencedAfter e, exec_transmitError_32 ht flight errors, bus, entries, failures, silencedAfter_latched e u,
    silencedAfter_eq e u, fun left law => ?_⟩
  have queued := found_stamps law
  have flying : e.stamp < u.tx.epoch * 64 := Nat.mul_comm 64 _ ▸ found_flight_stamp law flight
  rw [bus, silencedAfter_left left]
  refine ⟨u.returnedSilent e, returnedSilent_eq errors, fun current => returnedSilent_current current ?_,
    fun m g ⟨ho, hg⟩ => returnedSilent_old ho hg queued, returnedSilent_conditionEvent queued flying,
    returnedSilent_latch_eq .busSilent⟩
  obtain ⟨-, -, sorted⟩ := law
  rwa [found_tx]

end Sys2Proof.Machine
end

section
/-! The law of the bus port through every step (07, R112, R116 to R121, R123, R124). Most operations leave the port as it was;
each of the others is said by the port it leaves: a frame in flight lands, the line changes with no frame in flight, SILENT
ends, an entry starts, or the port is reset. -/

namespace Sys2Proof.Machine

/-! ### The law by the port an operation leaves -/

theorem busLaw_of_bus {s t : State} (bus : t.bus = s.bus) (hs : s.busLaw) : t.busLaw := by
  unfold State.busLaw at hs ⊢
  rwa [bus]

/-- Nothing is in flight in SILENT (07, R120). -/
theorem active_of_flight {s : State} (hs : s.busLaw) (flying : s.bus.flight.isSome = true) : s.bus.port = .active := by
  obtain ⟨-, -, silent⟩ := hs
  cases port : s.bus.port with
  | active => rfl
  | silent =>
    obtain ⟨-, -, grounded⟩ := silent port
    simp [grounded] at flying

theorem few_errors_of_flight {s : State} (hs : s.busLaw) (flying : s.bus.flight.isSome = true) : s.bus.errors < 32 := by
  have port := active_of_flight hs flying
  obtain ⟨-, active, -⟩ := hs
  obtain ⟨few, -⟩ := active port
  exact few

theorem grounded_of_line {s : State} (hs : s.busLaw) (free : s.bus.line ≠ .sending) : s.bus.flight = none := by
  obtain ⟨sending, -⟩ := hs
  simpa using mt sending.mpr free

/-- The outcome of a frame in flight, short of the 32nd error in a row. -/
theorem busLaw_of_landed {s t : State} {line : LineActivity} {errors : Nat} (hs : s.busLaw)
    (flying : s.bus.flight.isSome = true) (free : line ≠ .sending) (few : errors < 32)
    (bus : t.bus = { s.bus with line := line, flight := none, errors := errors }) : t.busLaw := by
  have port := active_of_flight hs flying
  obtain ⟨-, active, -⟩ := hs
  obtain ⟨-, goods⟩ := active port
  simp [State.busLaw, bus, port, free, few, goods]

/-- The line goes from one activity to another with no frame in flight. -/
theorem busLaw_of_line {s t : State} {line : LineActivity} (hs : s.busLaw) (grounded : s.bus.flight = none)
    (free : line ≠ .sending) (bus : t.bus = { s.bus with line := line }) : t.busLaw := by
  obtain ⟨-, active, silent⟩ := hs
  unfold State.busLaw
  rw [bus]
  exact ⟨by simp [free, grounded], active, silent⟩

/-- The port is ACTIVE with both counts 0. -/
theorem busLaw_of_cleared {t : State} (flying : t.bus.line = .sending ↔ t.bus.flight.isSome = true)
    (port : t.bus.port = .active) (errors : t.bus.errors = 0) (goods : t.bus.goods = 0) : t.busLaw := by
  refine ⟨flying, fun _ => ?_, fun silent => ?_⟩
  · omega
  · simp [port] at silent

/-! ### Resets -/

theorem performRestart_bus (s : State) : s.performRestart.bus =
    { s.bus with port := .active, errors := 0, goods := 0, flight := s.bus.flight.map Flight.finish } := by
  simp [State.performRestart]

theorem performRestart_busLaw {s : State} (hs : s.busLaw) : s.performRestart.busLaw := by
  obtain ⟨sending, -, -⟩ := hs
  have bus := performRestart_bus s
  refine busLaw_of_cleared ?_ (by rw [bus]) (by rw [bus]) (by rw [bus])
  rw [bus, Option.isSome_map]
  exact sending

theorem releaseReset_busLaw (straps : Straps) (s : State) : (s.releaseReset straps).busLaw :=
  busLaw_of_cleared (by simp [State.releaseReset, BusPort.reset]) rfl rfl rfl

theorem applyPower_busLaw (straps : Straps) (busy asserted : Bool) (s : State) :
    (State.applyPower straps busy asserted s).busLaw := by
  have released := releaseReset_busLaw straps { s with bus := { s.bus with unheard := busy } }
  cases asserted with
  | true => exact busLaw_of_bus (by rfl) released
  | false => exact released

theorem assertReset_busLaw {s : State} (hs : s.busLaw) : s.assertReset.busLaw := by
  obtain ⟨-, active, silent⟩ := hs
  rw [assertReset_eq]
  refine ⟨by simp, active, fun port => ?_⟩
  obtain ⟨errors, goods, -⟩ := silent port
  exact ⟨errors, goods, rfl⟩

/-! ### Starts and outcomes -/

/-- A start finds the port ready to send, and leaves it SENDING (07, R112, R116). -/
theorem select_busLaw {s : State} (hs : s.busLaw) (ready : s.canSelect = true) : s.newEvent.select.busLaw := by
  obtain ⟨-, port, -⟩ := (canSelect_iff s).mp ready
  rcases select_cases s.newEvent with ⟨-, discards⟩ | ⟨e, -, -, starts⟩
  · rw [discards]
    exact busLaw_of_bus (by simp) hs
  · obtain ⟨-, active, -⟩ := hs
    have bus : s.newEvent.discard.bus = s.bus := by simp
    rw [starts]
    unfold State.busLaw
    rw [start_bus, bus]
    exact ⟨by simp, active, fun silent => by simp [port] at silent⟩

theorem attempting_flight {s : State} (h : s.attempting = true) : ∃ e f, s.bus.flight = some (.attempt e f) := by
  cases flight : s.bus.flight with
  | none => simp [State.attempting, State.inFlight, flight] at h
  | some x =>
    cases x with
    | attempt e f => exact ⟨e, f, rfl⟩
    | finishing f => simp [State.attempting, State.inFlight, flight] at h

theorem finishing_flight {s : State} (h : s.finishing = true) : s.bus.flight.isSome = true := by
  cases flight : s.bus.flight with
  | none => simp [State.finishing, flight] at h
  | some x => rfl

theorem loseArbitration_busLaw {s : State} (hs : s.busLaw) (attempting : s.attempting = true) :
    s.loseArbitration.busLaw := by
  obtain ⟨e, f, flight⟩ := attempting_flight attempting
  have flying : s.bus.flight.isSome = true := by rw [flight]; rfl
  have few := few_errors_of_flight hs flying
  refine busLaw_of_landed (line := .receiving) hs flying (by decide) few ?_
  simp [State.loseArbitration, State.inFlight, flight, State.endAttempt]

theorem failAttempt_eq {s : State} {e : Entry} {f : Frame} (flight : s.bus.flight = some (.attempt e f)) :
    s.failAttempt = (s.attemptFailed.errorEntry e).silencedBy (s.bus.errors + 1) := by
  have errors : (s.attemptFailed.errorEntry e).bus.errors = s.bus.errors + 1 := by simp [State.attemptFailed]
  rw [State.silencedBy, ← errors]
  simp only [State.failAttempt, State.inFlight, flight]
  rfl

/-- The 32nd error in a row brings SILENT, and a run of 31 at the most goes on in ACTIVE (07, R118, R120). -/
theorem failAttempt_busLaw {s : State} (hs : s.busLaw) (attempting : s.attempting = true) : s.failAttempt.busLaw := by
  obtain ⟨e, f, flight⟩ := attempting_flight attempting
  have flying : s.bus.flight.isSome = true := by rw [flight]; rfl
  have few := few_errors_of_flight hs flying
  rw [failAttempt_eq flight]
  by_cases last : s.bus.errors = 31
  · rw [last, silencedBy_32]
    simp [State.busLaw, silencedAfter_bus e s last]
  · rw [silencedBy_other (by omega)]
    refine busLaw_of_landed (line := .idle) (errors := s.bus.errors + 1) hs flying (by decide) (by omega) ?_
    simp [State.attemptFailed]

theorem completeAttempt_busLaw {s : State} (hs : s.busLaw) (attempting : s.attempting = true) :
    s.completeAttempt.busLaw := by
  obtain ⟨e, f, flight⟩ := attempting_flight attempting
  have flying : s.bus.flight.isSome = true := by rw [flight]; rfl
  refine busLaw_of_landed (line := .idle) (errors := 0) hs flying (by decide) (by decide) ?_
  simp [State.completeAttempt, flight, State.endAttempt]

theorem finishingOutcome_busLaw {s : State} (hs : s.busLaw) (finishing : s.finishing = true) (o : AttemptOutcome) :
    (s.endAttempt (lineAfter o)).busLaw := by
  have flying := finishing_flight finishing
  have few := few_errors_of_flight hs flying
  exact busLaw_of_landed hs flying (by cases o <;> decide) few rfl

/-! ### Reception -/

theorem leaveSilent_busLaw {s : State} (hs : s.busLaw) : s.leaveSilent.busLaw := by
  cases port : s.bus.port with
  | active => rwa [leaveSilent_active port]
  | silent =>
    obtain ⟨sending, -, -⟩ := hs
    have bus := leaveSilent_bus_silent port
    refine busLaw_of_cleared ?_ (by rw [bus]) (by rw [bus]) (by rw [bus])
    rw [bus]
    exact sending

theorem frameBegins_busLaw {s : State} (hs : s.busLaw) (free : s.lineFree = true) : s.frameBegins.busLaw := by
  have idle : s.bus.line = .idle := by
    simp only [State.lineFree, Bool.and_eq_true, decide_eq_true_eq] at free
    obtain ⟨idle, -⟩ := free
    exact idle
  cases held : s.held with
  | true =>
    rw [frameBegins_held held]
    exact hs
  | false =>
    rw [frameBegins_running held]
    exact busLaw_of_line hs (grounded_of_line hs (by simp [idle])) (by decide) rfl

/-- A run of 64 good frames in a row ends SILENT, so a run in it is shorter (07, R121). -/
theorem heard_busLaw {u : State} (hs : u.busLaw) (grounded : u.bus.flight = none) : u.heard.busLaw := by
  have h := heard_hears u
  cases port : u.bus.port with
  | active => exact busLaw_of_line hs grounded (by decide) (h.active port)
  | silent =>
    by_cases last : u.lastGood
    · have bus := h.resuming last
      exact busLaw_of_cleared (by rw [bus, grounded]; simp) (by rw [bus]) (by rw [bus]) (by rw [bus])
    · obtain ⟨-, -, silent⟩ := hs
      obtain ⟨errors, -, -⟩ := silent port
      have short : u.bus.goods + 1 < 64 := Nat.not_le.mp fun sixtyFour => last ⟨port, sixtyFour⟩
      simp [State.busLaw, h.counting port last, port, grounded, errors, short]

theorem classify_busLaw {s : State} (hs : s.busLaw) (f : Frame) : (s.classify f).busLaw := by
  by_cases resume : s.resumesBus f
  · exact busLaw_of_bus (classify_bus_resuming resume) (leaveSilent_busLaw hs)
  · exact busLaw_of_bus (classify_bus_other resume) hs

theorem frameEnds_error_busLaw {s : State} (hs : s.busLaw) (grounded : s.bus.flight = none)
    (heard : s.bus.unheard = false) : (s.frameEnds .error).busLaw := by
  obtain ⟨-, active, silent⟩ := hs
  rw [frameEnds_error heard]
  refine ⟨by simp [grounded], fun port => ?_, fun port => ?_⟩
  · have port' : s.bus.port = .active := port
    simpa [port'] using active port'
  · have port' : s.bus.port = .silent := port
    obtain ⟨errors, -, -⟩ := silent port'
    simp [port', grounded, errors]

theorem frameEnds_busLaw {s : State} (hs : s.busLaw) (on : s.frameOnBus = true) (r : Reception) :
    (s.frameEnds r).busLaw := by
  cases unheard : s.bus.unheard with
  | true =>
    rw [frameEnds_unheard unheard]
    exact hs
  | false =>
    have line : s.bus.line = .receiving := by simpa [State.frameOnBus, unheard] using on
    have grounded := grounded_of_line hs (by simp [line])
    cases r with
    | good f =>
      rw [frameEnds_good unheard]
      exact classify_busLaw (heard_busLaw hs grounded) f
    | error => exact frameEnds_error_busLaw hs grounded unheard

/-! ### Every step -/

theorem busLaw_keptByBoundary : KeptByBoundary State.busLaw where
  current _ _ hs := hs
  close _ _ hs := busLaw_of_bus (by simp) hs
  work _ _ hs := busLaw_of_bus (by simp) hs
  wait _ _ _ hs _ := busLaw_of_bus (by simp) hs
  within _ _ _ _ hs _ := busLaw_of_bus (by simp) hs
  due _ _ hs _ := busLaw_of_bus (by simp) hs

theorem act_bus (r : Request) (rest : List Request) (s : State) : (r.row.act r (s.dequeue rest)).bus = s.bus := by
  obtain ⟨-, -, -, -, -, bus, -⟩ := act_plain r.row r (s.dequeue rest)
  exact bus

theorem busLaw_kept : Kept State.busLaw where
  toKeptByBoundary := busLaw_keptByBoundary
  pop _ _ hs := hs
  restart _ hs := performRestart_busLaw hs
  begin _ _ hs := busLaw_of_bus (by simp) hs
  select _ hs ready := select_busLaw hs ready
  take r rest s hs _ _ _ := busLaw_of_bus (act_bus r rest s) hs
  power straps busy asserted _ _ _ := applyPower_busLaw straps busy asserted _
  assertReset _ hs := assertReset_busLaw hs
  releaseReset straps s _ := releaseReset_busLaw straps s
  frameBegins _ hs free := frameBegins_busLaw hs free
  frameEnds r _ hs on := frameEnds_busLaw hs on r
  lose _ hs attempting := loseArbitration_busLaw hs attempting
  fail _ hs attempting := failAttempt_busLaw hs attempting
  complete _ hs attempting := completeAttempt_busLaw hs attempting
  finished o _ hs finishing := finishingOutcome_busLaw hs finishing o
  mark _ _ _ _ hs := busLaw_of_bus (by simp) hs
  window _ hs _ _ := busLaw_of_bus (by simp) hs
  slotBegins _ hs := busLaw_of_bus (by simp) hs
  slotEnds _ _ hs := busLaw_of_bus (by simp) hs
  masterExpiry _ _ hs _ := busLaw_of_bus (by simp) hs
  localExpiry _ _ hs _ := busLaw_of_bus (by simp) hs

/-- Settles O58: every operation a step is made of keeps the law of the bus port. -/
theorem stepKeepsTheBusPortLaw : Obligations.StepKeepsTheBusPortLaw :=
  fun _ _ hs hstep => busLaw_kept.step hs hstep

end Sys2Proof.Machine
end

section
/-! The request queue and the edit session through every step (08, R126; 09, R155, R157, R159, R166). Most operations leave the
management engine as it was but for its read hold. Of the others the works of a boundary, its steps, the resets, the takes
and a reception are said for each law. -/

namespace Sys2Proof.Machine

/-! ### Properties of the management engine -/

/-- Nothing that the laws of the management engine speak of changes: of the engine the read hold at the most. -/
structure EngineStill (s t : State) : Prop where
  active : t.active = s.active
  staging : t.staging = s.staging
  boundary : t.boundary = s.boundary
  engine : t.engine = { s.engine with hold := t.engine.hold }

theorem EngineStill.of_engine {s t : State} (active : t.active = s.active) (staging : t.staging = s.staging)
    (boundary : t.boundary = s.boundary) (engine : t.engine = s.engine) : EngineStill s t :=
  ⟨active, staging, boundary, by rw [engine]⟩

/-- What keeps a property of the management engine through every step. -/
structure KeptByEngine (P : State → Prop) : Prop where
  still : ∀ {s t}, P s → EngineStill s t → P t
  work : ∀ w s, P s → P (s.work w).1
  wait : ∀ w b s, P s → (s.work w).2 = some b.due → P { (s.work w).1 with boundary := some b }
  within : ∀ w d n s, P s → (s.work w).2 = some d → P ((s.work w).1.performDue d n)
  due : ∀ b s, P s → s.boundary = some b → P (State.performDue b.due b.number { s with boundary := none })
  restart : ∀ s, P s → P s.performRestart
  release : ∀ straps s, P s → P (s.releaseReset straps)
  take : ∀ r rest s, P s → s.engine.requests = r :: rest → s.boundary = none → P (r.row.act r (s.dequeue rest))
  frameEnds : ∀ r s, P s → P (s.frameEnds r)

namespace KeptByEngine

variable {P : State → Prop} (k : KeptByEngine P)
include k

theorem keptByBoundary : KeptByBoundary P where
  current _ _ hs := k.still hs ⟨rfl, rfl, rfl, rfl⟩
  close _ _ hs := k.still hs (.of_engine (by simp) (by simp) (by simp) (by simp))
  work := k.work
  wait := k.wait
  within := k.within
  due := k.due

theorem acceptMark (time : Nat) (m : RoundMark) (order : BoundaryOrder) {s : State} (hs : P s) :
    P (s.acceptMark time m order) := by
  unfold State.acceptMark
  dsimp only
  split
  · exact k.keptByBoundary.raiseBoundary _ _ _ _ (k.still hs ⟨rfl, rfl, rfl, rfl⟩)
  · exact k.still hs ⟨rfl, rfl, rfl, rfl⟩

theorem judgeMark (time : Nat) (m : RoundMark) (order : BoundaryOrder) {s : State} (hs : P s) :
    P (s.judgeMark time m order) := by
  have reference : P (s.takeReference time m.number) := k.still hs ⟨rfl, rfl, rfl, rfl⟩
  have missed (advance : Bool) (x : Byte) : P (s.miss advance x) :=
    k.still hs (.of_engine (by simp) (by simp) (by simp) (by simp))
  unfold State.judgeMark
  cases s.ring.lock with
  | hunt => exact reference
  | confirm =>
    dsimp only
    split
    · split
      · exact k.acceptMark _ _ _ (k.still hs (.of_engine (by simp) (by simp) (by simp) (by simp)))
      · exact reference
    · exact reference
  | locked =>
    dsimp only
    split
    · split
      · exact k.acceptMark _ _ _ hs
      · exact missed _ _
    · exact missed _ _

theorem markArrives (time : Nat) (m : RoundMark) (order : BoundaryOrder) {s : State} (hs : P s) :
    P (s.markArrives time m order) := by
  have truncated : P s.truncate := k.still hs (.of_engine (by simp) (by simp) (by simp) (by simp))
  have judged := k.judgeMark time m order truncated
  unfold State.markArrives
  dsimp only
  split
  · exact hs
  · split
    · split
      · split
        · exact judged
        · exact k.still truncated (.of_engine (by simp) (by simp) (by simp) (by simp))
      · exact judged
    · exact k.still truncated (.of_engine (by simp) (by simp) (by simp) (by simp))

/-- A power-on resets the part as a release does, and may hold it on (11, R189; log 25). -/
theorem applyPower (straps : Straps) (busy asserted : Bool) {s : State} (hs : P s) :
    P (State.applyPower straps busy asserted s) := by
  have released := k.release straps { s with bus := { s.bus with unheard := busy } } (k.still hs ⟨rfl, rfl, rfl, rfl⟩)
  cases asserted with
  | true => exact k.still released ⟨rfl, rfl, rfl, rfl⟩
  | false => exact released

theorem kept : Kept P where
  toKeptByBoundary := k.keptByBoundary
  pop _ _ hs := k.still hs ⟨rfl, rfl, rfl, rfl⟩
  restart := k.restart
  begin _ _ hs := k.still hs (.of_engine (by simp) (by simp) (by simp) (by simp))
  select _ hs _ := k.still hs (.of_engine (by simp) (by simp) (by simp) (by simp))
  take r rest s hs queue _ closed := k.take r rest s hs queue closed
  power straps busy asserted t s hs := by
    have cut : P s.assertReset := k.still hs (.of_engine (by simp) (by simp) (by simp) (by simp))
    exact k.applyPower straps busy asserted (k.still cut ⟨rfl, rfl, rfl, rfl⟩)
  assertReset _ hs := k.still hs (.of_engine (by simp) (by simp) (by simp) (by simp))
  releaseReset := k.release
  frameBegins _ hs _ := k.still hs (.of_engine (by simp) (by simp) (by simp) (by simp))
  frameEnds r s hs _ := k.frameEnds r s hs
  lose _ hs _ := k.still hs (.of_engine (by simp) (by simp) (by simp) (by simp))
  fail _ hs _ := k.still hs (.of_engine (by simp) (by simp) (by simp) (by simp))
  complete s hs _ := k.still hs ⟨by simp, by simp, by simp, completeAttempt_engine s⟩
  finished _ _ hs _ := k.still hs ⟨rfl, rfl, rfl, rfl⟩
  mark time m order _ hs := k.markArrives time m order hs
  window _ hs _ _ := k.still hs (.of_engine (by simp) (by simp) (by simp) (by simp))
  slotBegins _ hs := k.still hs (.of_engine (by simp) (by simp) (by simp) (by simp))
  slotEnds b s hs := k.still hs ⟨by simp, by simp, by simp, slotEnds_engine b s⟩
  masterExpiry _ s hs _ := k.keptByBoundary.raiseBoundary _ _ _ _
    (k.still (t := s.dropThrough) hs (.of_engine (by simp) (by simp) (by simp) (by simp)))
  localExpiry _ _ hs _ := k.keptByBoundary.raiseBoundary _ _ _ _ hs

end KeptByEngine

/-! ### The request queue (08, R126) -/

theorem requestLaw_of_requests {s t : State} (requests : t.engine.requests = s.engine.requests) (hs : s.requestLaw) :
    t.requestLaw := by
  unfold State.requestLaw at hs ⊢
  rwa [requests]

/-- A frame carries at most eight data bytes (02, R18). -/
theorem count_le_eight (f : Frame) : f.count ≤ 8 := Nat.min_le_right _ _

theorem bytes_length (f : Frame) : f.bytes.length = f.count := by
  simp [Frame.bytes]

theorem queueRequest_requestLaw (broadcast : Bool) (f : Frame) {s : State} (hs : s.requestLaw) :
    (s.queueRequest broadcast f).requestLaw := by
  obtain ⟨few, sizes⟩ := id hs
  unfold State.queueRequest
  split
  · exact hs
  · rename_i long
    split
    · exact requestLaw_of_requests (by simp) hs
    · rename_i room
      have room' : s.engine.requests.length < 4 := Nat.not_le.mp room
      refine ⟨by simpa using room', fun r hr => ?_⟩
      rcases List.mem_append.mp hr with waiting | joined
      · exact sizes r waiting
      · rw [List.mem_singleton.mp joined]
        dsimp only
        rw [bytes_length]
        exact ⟨Nat.not_lt.mp long, count_le_eight f⟩

theorem classify_requestLaw (f : Frame) {s : State} (hs : s.requestLaw) : (s.classify f).requestLaw := by
  rcases frame_cases f s with traffic | broadcast | own | ⟨high, foreign⟩
  · rw [classify_traffic traffic]
    exact requestLaw_of_requests (by rw [State.offerToMatch, walk_engine]) hs
  · rw [classify_broadcast broadcast]
    exact queueRequest_requestLaw true f hs
  · rw [classify_request own]
    exact queueRequest_requestLaw false f (requestLaw_of_requests (by simp) hs)
  · rwa [classify_other high foreign]

theorem frameEnds_requestLaw (r : Reception) {s : State} (hs : s.requestLaw) : (s.frameEnds r).requestLaw := by
  cases unheard : s.bus.unheard with
  | true =>
    rw [frameEnds_unheard unheard]
    exact hs
  | false =>
    cases r with
    | error =>
      rw [frameEnds_error unheard]
      exact hs
    | good f =>
      rw [frameEnds_good unheard]
      exact classify_requestLaw f (requestLaw_of_requests (by rw [(heard_hears s).engine]) hs)

theorem dequeue_requestLaw {r : Request} {rest : List Request} {s : State} (queue : s.engine.requests = r :: rest)
    (hs : s.requestLaw) : (s.dequeue rest).requestLaw := by
  obtain ⟨few, sizes⟩ := hs
  rw [queue] at few sizes
  refine ⟨?_, fun x hx => sizes x (List.mem_cons_of_mem r hx)⟩
  simp only [List.length_cons] at few
  simp only [dequeue_engine]
  omega

theorem requestLaw_of_empty {t : State} (empty : t.engine.requests = []) : t.requestLaw := by
  simp [State.requestLaw, empty]

theorem requestLaw_kept : Kept State.requestLaw := KeptByEngine.kept {
  still := fun hs h => requestLaw_of_requests (by rw [h.engine]) hs
  work := fun w s hs => requestLaw_of_requests (work_requests w s) hs
  wait := fun w _ s hs _ => requestLaw_of_requests (work_requests w s) hs
  within := fun w d n s hs _ => requestLaw_of_requests ((performDue_requests d n _).trans (work_requests w s)) hs
  due := fun b s hs _ => requestLaw_of_requests (s := s) (performDue_requests b.due b.number _) hs
  restart := fun _ _ => requestLaw_of_empty rfl
  release := fun _ _ _ => requestLaw_of_empty rfl
  take := fun r _ _ hs queue _ => requestLaw_of_requests (act_requests r.row r _) (dequeue_requestLaw queue hs)
  frameEnds := fun r _ hs => frameEnds_requestLaw r hs }

/-! ### The edit session (09, R155) -/

/-- The session law of a part with no boundary waiting for a step (09, R155, R157, R166). -/
structure State.sessionOwned (s : State) : Prop where
  unopened : s.engine.owner = none → s.staging = s.active
  pending : ∀ c ∈ s.engine.commit, s.engine.owner = some c.tag
  token : s.engine.owner ≠ some 0

theorem sessionLaw_iff (s : State) :
    s.sessionLaw ↔ s.sessionOwned ∧ ∀ b ∈ s.boundary, b.due = .sessionExpiry → s.engine.commit = none :=
  ⟨fun ⟨unopened, pending, token, expiring⟩ => ⟨⟨unopened, pending, token⟩, expiring⟩,
    fun ⟨⟨unopened, pending, token⟩, expiring⟩ => ⟨unopened, pending, token, expiring⟩⟩

/-- Nothing that the session law speaks of changes, the boundary apart. -/
structure SameSession (s t : State) : Prop where
  active : t.active = s.active
  staging : t.staging = s.staging
  owner : t.engine.owner = s.engine.owner
  commit : t.engine.commit = s.engine.commit

theorem State.sessionOwned.same {s t : State} (hs : s.sessionOwned) (h : SameSession s t) : t.sessionOwned := by
  obtain ⟨active, staging, owner, commit⟩ := h
  obtain ⟨unopened, pending, token⟩ := hs
  exact ⟨by rwa [owner, staging, active], by rwa [commit, owner], by rwa [owner]⟩

theorem sessionLaw_of_same {s t : State} (hs : s.sessionLaw) (h : SameSession s t) (boundary : t.boundary = s.boundary) :
    t.sessionLaw := by
  obtain ⟨owned, expiring⟩ := (sessionLaw_iff s).mp hs
  exact (sessionLaw_iff t).mpr ⟨owned.same h, by rwa [boundary, h.commit]⟩

/-- No session is open, and staging equals active. -/
structure State.sessionClosed (s : State) : Prop where
  owner : s.engine.owner = none
  staging : s.staging = s.active
  commit : s.engine.commit = none

theorem State.sessionClosed.sessionOwned {s : State} (h : s.sessionClosed) : s.sessionOwned :=
  ⟨fun _ => h.staging, by simp [h.commit], by simp [h.owner]⟩

theorem State.sessionClosed.sessionLaw {s : State} (h : s.sessionClosed) : s.sessionLaw :=
  (sessionLaw_iff s).mpr ⟨h.sessionOwned, fun _ _ _ => h.commit⟩

/-- An open session with no commit pending, and with an owner token that is one (09, R157). -/
theorem sessionOwned_of_open {s : State} {tag : Byte} (owner : s.engine.owner = some tag) (token : tag ≠ 0)
    (commit : s.engine.commit = none) : s.sessionOwned :=
  ⟨by simp [owner], by simp [commit], by simpa [owner] using token⟩

/-! ### The works and the steps of a boundary -/

theorem work_sameSession (w : BoundaryWork) (s : State) : SameSession s (s.work w).1 :=
  ⟨by simp, by simp, by rw [work_engine], by rw [work_engine]⟩

/-- The swap closes the session, whose staging image it has installed (09, R167). -/
theorem swapCommit_sessionClosed (c : PendingCommit) (n : Byte) (s : State) : (s.swapCommit c n).sessionClosed := by
  obtain ⟨staging, active, -⟩ := swapCommit_images c n s
  exact ⟨by rw [swapCommit_engine], staging.trans active.symm, by rw [swapCommit_engine]⟩

/-- The expiry of an unfrozen session closes it, and discards what it has staged (09, R159). -/
theorem expireSession_sessionClosed {s : State} (unfrozen : s.engine.commit = none) : s.expireSession.sessionClosed :=
  ⟨by simp [State.expireSession, State.closeSession], by simp [State.expireSession, State.closeSession],
    by simpa [State.expireSession, State.closeSession] using unfrozen⟩

theorem performDue_sessionLaw {d : DueStep} {s : State} (n : Byte) (hs : s.sessionLaw)
    (expiring : d = .sessionExpiry → s.engine.commit = none) : (s.performDue d n).sessionLaw := by
  cases d with
  | swap =>
    show (s.swapPending n).sessionLaw
    unfold State.swapPending
    split
    · exact (swapCommit_sessionClosed _ n s).sessionLaw
    · exact hs
  | sessionExpiry => exact (expireSession_sessionClosed (expiring rfl)).sessionLaw
  | snapshotExpiry =>
    exact sessionLaw_of_same (t := s.takeSnapshot) hs ⟨by simp, by simp, by simp, by simp⟩ (by simp)
  | repeatExpiry =>
    exact sessionLaw_of_same (t := s.expireRepeat) hs ⟨by simp, by simp, by simp, by simp⟩ (by simp)

theorem wait_sessionLaw {w : BoundaryWork} {b : Boundary} {s : State} (hs : s.sessionLaw)
    (brings : (s.work w).2 = some b.due) : ({ (s.work w).1 with boundary := some b } : State).sessionLaw := by
  obtain ⟨owned, -⟩ := (sessionLaw_iff s).mp hs
  have same := work_sameSession w s
  refine (sessionLaw_iff _).mpr ⟨(owned.same same).same ⟨rfl, rfl, rfl, rfl⟩, fun c hc expiring => ?_⟩
  obtain rfl : b = c := Option.some.inj hc
  exact same.commit.trans (work_sessionExpiry (brings.trans (congrArg some expiring)))

theorem within_sessionLaw {w : BoundaryWork} {d : DueStep} {s : State} (n : Byte) (hs : s.sessionLaw)
    (brings : (s.work w).2 = some d) : ((s.work w).1.performDue d n).sessionLaw := by
  have same := work_sameSession w s
  refine performDue_sessionLaw n (sessionLaw_of_same hs same (by simp)) fun expiring => ?_
  exact same.commit.trans (work_sessionExpiry (brings.trans (congrArg some expiring)))

theorem due_sessionLaw {b : Boundary} {s : State} (hs : s.sessionLaw) (waiting : s.boundary = some b) :
    (State.performDue b.due b.number { s with boundary := none }).sessionLaw := by
  obtain ⟨owned, expiring⟩ := (sessionLaw_iff s).mp hs
  refine performDue_sessionLaw b.number ?_ (expiring b waiting)
  exact (sessionLaw_iff _).mpr ⟨owned.same ⟨rfl, rfl, rfl, rfl⟩, nofun⟩

/-! ### The takes -/

/-- The reply entries are no part of the session. -/
theorem answered_sessionOwned {h : Request → State → Answer} {r : Request} {s : State}
    (ha : ∀ x : State, x.sessionOwned → (h r x).state.sessionOwned) (hs : s.sessionOwned) :
    (State.answered h r s).sessionOwned := by
  unfold State.answered
  split
  · exact hs
  · rename_i k _
    have reserved : (s.markReply k .reserved).sessionOwned := hs.same ⟨rfl, rfl, rfl, rfl⟩
    exact (ha _ reserved).same ⟨rfl, rfl, rfl, rfl⟩

theorem clearIdle_sessionOwned {s : State} (hs : s.sessionOwned) : s.clearIdle.sessionOwned :=
  hs.same ⟨rfl, rfl, rfl, rfl⟩

/-- The action of an edit-class request is its owner's, and is reached only while no commit is pending (09, R156). -/
theorem edit_sessionOwned {body : Request → State → Answer} {r : Request} (need : Nat) {s : State}
    (hb : ∀ x : State, x.engine.owner = some r.tag → x.engine.commit = none → x.sessionOwned →
      (body r x).state.sessionOwned) (hs : s.sessionOwned) : (State.edit need body r s).state.sessionOwned := by
  have cleared := clearIdle_sessionOwned hs
  unfold State.edit
  split
  · rename_i owner
    dsimp only
    split
    · exact cleared
    · rename_i unfrozen
      split
      · exact cleared
      · exact hb _ (of_decide_eq_true owner) (by simpa using unfrozen) cleared
  · exact hs

/-- A request that edits the staging image alone leaves its owner's session open (09, R160 to R163). -/
theorem edit_sessionOwned_of_engine {body : Request → State → Answer} {r : Request} (need : Nat) {s : State}
    (hb : ∀ x : State, (body r x).state.engine = x.engine) (hs : s.sessionOwned) :
    (State.edit need body r s).state.sessionOwned := by
  refine edit_sessionOwned need (fun x owner unfrozen hx => ?_) hs
  have engine := hb x
  refine sessionOwned_of_open (by rw [engine, owner]) (fun zero => hx.token ?_) (by rw [engine, unfrozen])
  rw [owner, zero]

theorem bodySetMatch_engine (r : Request) (s : State) : (bodySetMatch r s).state.engine = s.engine := by
  unfold bodySetMatch
  dsimp only
  (repeat' split) <;> rfl

theorem bodySetTiming_engine (r : Request) (s : State) : (bodySetTiming r s).state.engine = s.engine := by
  unfold bodySetTiming
  (repeat' split) <;> rfl

theorem bodySetSlot_engine (r : Request) (s : State) : (bodySetSlot r s).state.engine = s.engine := by
  unfold bodySetSlot
  (repeat' split) <;> rfl

theorem bodySetProfile_engine (r : Request) (s : State) : (bodySetProfile r s).state.engine = s.engine := by
  unfold bodySetProfile
  dsimp only
  (repeat' split) <;> rfl

/-- 0 opens no session (09, R157). -/
theorem answerOpenEdit_sessionOwned (r : Request) {s : State} (hs : s.sessionOwned) :
    (answerOpenEdit r s).state.sessionOwned := by
  unfold answerOpenEdit
  split
  · exact hs
  · rename_i token
    split
    · rename_i unopened
      refine sessionOwned_of_open (tag := r.tag) rfl token (Option.eq_none_iff_forall_ne_some.mpr fun c hc => ?_)
      exact absurd (unopened.symm.trans (hs.pending c hc)) nofun
    · split
      · exact clearIdle_sessionOwned hs
      · exact hs

/-- An accepted COMMIT pends under the tag of the session's owner (09, R166). -/
theorem actCommit_sessionOwned (r : Request) {s : State} (hs : s.sessionOwned) : (actCommit r s).sessionOwned := by
  obtain ⟨-, -, token⟩ := id hs
  unfold actCommit
  split
  · exact hs
  · dsimp only
    split
    · rename_i owner
      have owner' : s.engine.owner = some r.tag := of_decide_eq_true owner
      split
      · exact hs.same ⟨rfl, rfl, rfl, rfl⟩
      · split
        · exact hs.same ⟨rfl, rfl, rfl, rfl⟩
        · refine ⟨fun unopened => ?_, fun c hc => ?_, token⟩
          · exact absurd (owner'.symm.trans unopened) nofun
          · obtain rfl := Option.some.inj hc
            exact owner'
    · exact hs.same ⟨rfl, rfl, rfl, rfl⟩

/-- A CANCEL withdraws a pending commit and leaves the session open (09, R170). -/
theorem answerCancel_sessionOwned (r : Request) {s : State} (hs : s.sessionOwned) :
    (answerCancel r s).state.sessionOwned := by
  have cleared := clearIdle_sessionOwned hs
  unfold answerCancel
  split
  · split
    · dsimp only
      split
      · exact ⟨cleared.unopened, nofun, cleared.token⟩
      · exact cleared
    · exact hs
  · split <;> exact hs

theorem answerSetNoticeEnable_sessionOwned (r : Request) {s : State} (hs : s.sessionOwned) :
    (answerSetNoticeEnable r s).state.sessionOwned := by
  unfold answerSetNoticeEnable State.okay State.refuse
  dsimp only
  (repeat' split) <;> exact hs.same ⟨by simp, by simp, by simp, by simp⟩

theorem takeSnapshot_sessionOwned {s : State} (hs : s.sessionOwned) : s.takeSnapshot.sessionOwned :=
  hs.same ⟨by simp, by simp, by simp, by simp⟩

theorem actAssign_sameSession (r : Request) (s : State) : SameSession s (actAssign r s) := by
  have placed (x : State) (c : Reply) : SameSession x (x.placeFreeReply c) := by
    unfold State.placeFreeReply
    split <;> exact ⟨rfl, rfl, rfl, rfl⟩
  unfold actAssign
  dsimp only
  split
  · split
    · exact ⟨rfl, rfl, rfl, rfl⟩
    · obtain ⟨active, staging, owner, commit⟩ := placed { s with engine := { s.engine with node := r.tag.setWidth 6 } }
        { code := 0x03, tag := 0, result := .ok, data := [] }
      split
      · exact ⟨by simpa using active, by simpa using staging, by simpa using owner, by simpa using commit⟩
      · exact ⟨active, staging, owner, commit⟩
  · exact ⟨rfl, rfl, rfl, rfl⟩

theorem act_sessionOwned (row : TakeRow) (r : Request) {s : State} (hs : s.sessionOwned) : (row.act r s).sessionOwned := by
  cases row with
  | probe | resumeBus | readNotices | readAttention | unknownRequest =>
    exact answered_sessionOwned (fun _ hx => hx.same ⟨rfl, rfl, rfl, rfl⟩) hs
  | readConfig | readMailboxPart0 | capture | readMailboxPart2 | readCounters | ackNotices =>
    refine answered_sessionOwned (fun x hx => ?_) hs
    simp only [answerReadConfig, answerReadMailboxPart0, answerCapture, answerReadMailboxPart2, answerReadCounters,
      answerAckNotices, State.okay, State.refuse]
    (repeat' split) <;> exact hx.same ⟨rfl, rfl, rfl, rfl⟩
  | setNoticeEnable => exact answered_sessionOwned (fun _ hx => answerSetNoticeEnable_sessionOwned r hx) hs
  | openEdit => exact answered_sessionOwned (fun _ hx => answerOpenEdit_sessionOwned r hx) hs
  | closeEdit =>
    refine answered_sessionOwned (fun x hx => edit_sessionOwned 2 (fun y _ unfrozen _ => ?_) hx) hs
    exact State.sessionClosed.sessionOwned ⟨rfl, rfl, unfrozen⟩
  | setMatch =>
    exact answered_sessionOwned (fun _ hx => edit_sessionOwned_of_engine 8 (bodySetMatch_engine r) hx) hs
  | setTiming =>
    exact answered_sessionOwned (fun _ hx => edit_sessionOwned_of_engine 7 (bodySetTiming_engine r) hx) hs
  | setSlot =>
    exact answered_sessionOwned (fun _ hx => edit_sessionOwned_of_engine 5 (bodySetSlot_engine r) hx) hs
  | setProfile =>
    exact answered_sessionOwned (fun _ hx => edit_sessionOwned_of_engine 5 (bodySetProfile_engine r) hx) hs
  | cancel => exact answered_sessionOwned (fun _ hx => answerCancel_sessionOwned r hx) hs
  | commit => exact actCommit_sessionOwned r hs
  | assign => exact hs.same (actAssign_sameSession r s)
  | discover =>
    simp only [TakeRow.act, actDiscover]
    (repeat' split) <;> exact hs.same ⟨rfl, rfl, rfl, rfl⟩
  | restart =>
    simp only [TakeRow.act, actRestart]
    (repeat' split) <;> exact hs.same ⟨rfl, rfl, rfl, rfl⟩
  | broadcastDiscard => exact hs.same ⟨rfl, rfl, rfl, rfl⟩
  | snapshot =>
    simp only [TakeRow.act, actSnapshot]
    split
    · exact takeSnapshot_sessionOwned hs
    · exact answered_sessionOwned (fun _ hx => takeSnapshot_sessionOwned hx) hs

theorem act_boundary (row : TakeRow) (r : Request) (s : State) : (row.act r s).boundary = s.boundary := by
  obtain ⟨-, -, -, -, -, -, boundary, -⟩ := act_plain row r s
  exact boundary

/-- A take happens only while no boundary waits for a step. -/
theorem take_sessionLaw (r : Request) (rest : List Request) {s : State} (hs : s.sessionLaw) (closed : s.boundary = none) :
    (r.row.act r (s.dequeue rest)).sessionLaw := by
  obtain ⟨owned, -⟩ := (sessionLaw_iff s).mp hs
  have dequeued : (s.dequeue rest).sessionOwned := owned.same ⟨rfl, rfl, rfl, rfl⟩
  have closed' : (r.row.act r (s.dequeue rest)).boundary = none := (act_boundary _ _ _).trans closed
  exact (sessionLaw_iff _).mpr ⟨act_sessionOwned r.row r dequeued, by simp [closed']⟩

/-! ### Every step -/

theorem sessionLaw_kept : Kept State.sessionLaw := KeptByEngine.kept {
  still := fun hs h =>
    sessionLaw_of_same hs ⟨h.active, h.staging, by rw [h.engine], by rw [h.engine]⟩ h.boundary
  work := fun w s hs => sessionLaw_of_same hs (work_sameSession w s) (by simp)
  wait := fun _ _ _ hs brings => wait_sessionLaw hs brings
  within := fun _ _ n _ hs brings => within_sessionLaw n hs brings
  due := fun _ _ hs waiting => due_sessionLaw hs waiting
  restart := fun _ _ => State.sessionClosed.sessionLaw ⟨rfl, rfl, rfl⟩
  release := fun _ _ _ => State.sessionClosed.sessionLaw ⟨rfl, rfl, rfl⟩
  take := fun r rest _ hs _ closed => take_sessionLaw r rest hs closed
  frameEnds := fun r s hs =>
    sessionLaw_of_same hs ⟨by simp, by simp, by rw [frameEnds_engine], by rw [frameEnds_engine]⟩ (by simp) }

/-- Settles O55: every operation a step is made of keeps the law of the request queue and the law of the session. -/
theorem stepKeepsTheEngineLaws : Obligations.StepKeepsTheEngineLaws :=
  ⟨fun _ _ hs hstep => requestLaw_kept.step hs hstep, fun _ _ hs hstep => sessionLaw_kept.step hs hstep⟩

end Sys2Proof.Machine
end

section
/-! Which row takes a request (08, R130, R133, R135, R141; log 22), and the codes of the wire (01, R16; 03, R37, R41; 08, R131;
09, R163; 10, R174). -/

namespace Sys2Proof.Machine

/-! ### Node-addressed requests -/

/-- The request code of a row that takes every node-addressed request of its code, and no other (08, R130). -/
def TakeRow.nodeCode : TakeRow → Option Byte
  | .probe => some 0x01
  | .openEdit => some 0x08
  | .closeEdit => some 0x09
  | .setMatch => some 0x0A
  | .setTiming => some 0x0B
  | .setSlot => some 0x0C
  | .setProfile => some 0x0D
  | .commit => some 0x0E
  | .cancel => some 0x0F
  | .readConfig => some 0x10
  | .readCounters => some 0x12
  | .snapshot => some 0x13
  | .readNotices => some 0x14
  | .ackNotices => some 0x15
  | .setNoticeEnable => some 0x16
  | .readAttention => some 0x17
  | .resumeBus => some 0x18
  | .restart => some 0x1F
  | .discover | .assign | .readMailboxPart0 | .capture | .readMailboxPart2 | .unknownRequest | .broadcastDiscard => none

theorem readMailboxRow_cases (r : Request) : readMailboxRow r = .capture ∨ readMailboxRow r = .readMailboxPart2 ∨
    readMailboxRow r = .readMailboxPart0 := by
  unfold readMailboxRow
  split
  · simp
  · split <;> simp

theorem readMailboxRow_nodeCode (r : Request) : (readMailboxRow r).nodeCode = none := by
  rcases readMailboxRow_cases r with h | h | h <;> rw [h] <;> rfl

theorem nodeRow_readMailbox {r : Request} (code : r.code = 0x11) : nodeRow r = readMailboxRow r := by
  simp [nodeRow, code]

/-- The row of a node-addressed request is that of its code, one of READ_MAILBOX, or that of unrecognised requests. -/
theorem nodeRow_cases (r : Request) :
    (nodeRow r).nodeCode = some r.code ∨ (r.code = 0x11 ∧ nodeRow r = readMailboxRow r) ∨
      (nodeRow r = .unknownRequest ∧ (r.code.toNat < 0x01 ∨ (0x01 < r.code.toNat ∧ r.code.toNat < 0x08) ∨
        (0x18 < r.code.toNat ∧ r.code.toNat ≠ 0x1F))) := by
  by_cases mailbox : r.code = 0x11
  · exact .inr (.inl ⟨mailbox, nodeRow_readMailbox mailbox⟩)
  · have other : r.code.toNat ≠ 0x11 := fun code => mailbox (BitVec.eq_of_toNat_eq code)
    unfold nodeRow
    split
    case h_11 code => exact absurd code other
    case h_20 =>
      refine .inr (.inr ⟨rfl, ?_⟩)
      simp only [imp_false] at *
      omega
    all_goals
      rename_i code
      exact .inl (congrArg some (BitVec.eq_of_toNat_eq code.symm))

theorem nodeRow_iff_code {row : TakeRow} {code : Byte} (h : row.nodeCode = some code) (r : Request) :
    nodeRow r = row ↔ r.code = code := by
  constructor
  · rintro rfl
    rcases nodeRow_cases r with plain | ⟨-, mailbox⟩ | ⟨unknown, -⟩
    · exact Option.some.inj (plain.symm.trans h)
    · rw [mailbox, readMailboxRow_nodeCode] at h
      cases h
    · rw [unknown] at h
      cases h
  · rintro rfl
    cases row <;> simp only [TakeRow.nodeCode, Option.some.injEq, reduceCtorEq] at h <;> simp [nodeRow, ← h]

/-- A row of READ_MAILBOX takes the requests of its code that name its part (08, R141). -/
theorem nodeRow_iff_mailbox {row : TakeRow} (h : row = .capture ∨ row = .readMailboxPart0 ∨ row = .readMailboxPart2)
    (r : Request) : nodeRow r = row ↔ r.code = 0x11 ∧ readMailboxRow r = row := by
  constructor
  · rintro rfl
    rcases nodeRow_cases r with plain | ⟨code, mailbox⟩ | ⟨unknown, -⟩
    · rcases h with h | h | h <;> rw [h] at plain <;> cases plain
    · exact ⟨code, mailbox.symm⟩
    · simp [unknown] at h
  · rintro ⟨code, mailbox⟩
    rw [nodeRow_readMailbox code, mailbox]

theorem readMailboxRow_iff (r : Request) :
    (readMailboxRow r = .capture ↔ 4 ≤ r.data.length ∧ r.byte 3 = 1) ∧
    (readMailboxRow r = .readMailboxPart2 ↔ 4 ≤ r.data.length ∧ r.byte 3 = 2) ∧
    (readMailboxRow r = .readMailboxPart0 ↔ ¬ (4 ≤ r.data.length ∧ (r.byte 3 = 1 ∨ r.byte 3 = 2))) := by
  have part (n : Byte) : r.byte 3 = n ↔ (r.byte 3).toNat = n.toNat := BitVec.toNat_inj.symm
  unfold readMailboxRow
  rw [part, part]
  split
  · rename_i short
    simp [Nat.not_le.mpr short]
  · rename_i long
    have long' : 4 ≤ r.data.length := Nat.not_lt.mp long
    split
    · rename_i one
      simp [long', one]
    · rename_i two
      simp [long', two]
    · rename_i one two
      have one' : ¬ (r.byte 3).toNat = 1 := one
      have two' : ¬ (r.byte 3).toNat = 2 := two
      simp [long', one', two']

theorem nodeRow_unknown_iff (r : Request) : nodeRow r = .unknownRequest ↔
    r.code.toNat < 0x01 ∨ (0x01 < r.code.toNat ∧ r.code.toNat < 0x08) ∨ (0x18 < r.code.toNat ∧ r.code ≠ 0x1F) := by
  constructor
  · intro h
    rcases nodeRow_cases r with plain | ⟨-, mailbox⟩ | ⟨-, unknown⟩
    · rw [h] at plain
      cases plain
    · have known := readMailboxRow_cases r
      simp [← mailbox, h] at known
    · exact unknown.imp_right (Or.imp_right (And.imp_right fun ne code => ne (by rw [code]; rfl)))
  · intro h
    have restart : r.code ≠ 0x1F ↔ r.code.toNat ≠ 0x1F := not_congr BitVec.toNat_inj.symm
    rw [restart] at h
    unfold nodeRow
    split
    case h_20 => rfl
    all_goals omega

/-! ### Broadcast requests -/

theorem broadcastRow_iff (r : Request) :
    (broadcastRow r = .discover ↔ r.code = 0x02 ∧ 3 ≤ r.data.length) ∧
    (broadcastRow r = .assign ↔ r.code = 0x03 ∧ 8 ≤ r.data.length ∧ r.tag.toNat ≤ 63) ∧
    (broadcastRow r = .snapshot ↔ r.code = 0x13) ∧
    (broadcastRow r = .broadcastDiscard ↔ ¬ (r.code = 0x02 ∧ 3 ≤ r.data.length) ∧
      ¬ (r.code = 0x03 ∧ 8 ≤ r.data.length ∧ r.tag.toNat ≤ 63) ∧ r.code ≠ 0x13) := by
  have code (n : Byte) : r.code = n ↔ r.code.toNat = n.toNat := BitVec.toNat_inj.symm
  unfold broadcastRow
  rw [code, code, Ne, code]
  split
  · rename_i discover
    by_cases long : 3 ≤ r.data.length <;> simp [discover, long]
  · rename_i assign
    by_cases valid : 8 ≤ r.data.length ∧ r.tag.toNat ≤ 63 <;> simp [assign, valid]
  · rename_i snapshot
    simp [snapshot]
  · rename_i h2 h3 h19
    have two : ¬ r.code.toNat = 2 := h2
    have three : ¬ r.code.toNat = 3 := h3
    have nineteen : ¬ r.code.toNat = 19 := h19
    simp [two, three, nineteen]

/-- An ASSIGN that is taken by its row names a node number (08, R135). -/
theorem tag_of_row_assign {r : Request} (row : r.row = .assign) : r.tag.toNat ≤ 63 := by
  cases broadcast : r.broadcast with
  | true =>
    simp only [Request.row, broadcast, if_true] at row
    obtain ⟨-, -, number⟩ := (broadcastRow_iff r).2.1.mp row
    exact number
  | false =>
    have node : nodeRow r = .assign := by simpa [Request.row, broadcast] using row
    rcases nodeRow_cases r with plain | ⟨-, mailbox⟩ | ⟨unknown, -⟩
    · rw [node] at plain
      cases plain
    · have known := readMailboxRow_cases r
      simp [← mailbox, node] at known
    · rw [node] at unknown
      cases unknown

/-! ### Codes -/

theorem Condition.isIn_iff (c : Condition) (v : ConditionSet) : c.isIn v = true ↔ v &&& c.bit ≠ 0 := by
  have flag : c.bit ≠ 0 := by cases c <;> decide
  have masked : v &&& c.bit = if c.isIn v then c.bit else 0 := BitVec.and_twoPow v c.number
  rw [masked]
  cases c.isIn v with
  | true => simpa using flag
  | false => simp

/-- The profile values by selector (08, R139; 09, R163). -/
theorem profile_value (p : Profile) : p.value 1 = (if p.role = .master then 1 else 0) ∧ p.value 2 = p.slotCount.toNat ∧
    p.value 3 = p.roundPeriod ∧ p.value 4 = (if p.policy = .arrival then 1 else 0) ∧ p.value 5 = p.retryLimit ∧
    p.value 6 = p.snapshotInterval ∧ p.value 7 = p.noticeRepeat ∧ p.value 8 = (if p.selfFeed = true then 1 else 0) ∧
    p.value 9 = p.idleLimit := by
  refine ⟨?_, rfl, rfl, ?_, rfl, rfl, rfl, rfl, rfl⟩
  · cases role : p.role <;> simp [Profile.value, role, RingRole.code]
  · cases policy : p.policy <;> simp [Profile.value, policy]

/-- Settles O59: the rows by code, length and part, then each table of codes by its entries. -/
theorem rowsTakeRequestsByCode : Obligations.RowsTakeRequestsByCode := by
  refine ⟨fun r node => ?_, fun r broadcast => ?_, fun k => ?_, fun b => ?_, fun c => ?_, fun d => ?_, fun p => ?_,
    fun n => ?_, fun c => ?_, fun c => ⟨?_, c.isIn_iff⟩, profile_value⟩
  · have row : r.row = nodeRow r := by simp [Request.row, node]
    obtain ⟨part1, part2, part0⟩ := readMailboxRow_iff r
    rw [row, nodeRow_iff_mailbox (.inl rfl), part1, nodeRow_iff_mailbox (.inr (.inr rfl)), part2,
      nodeRow_iff_mailbox (.inr (.inl rfl)), part0]
    exact ⟨nodeRow_iff_code rfl r, nodeRow_iff_code rfl r, nodeRow_iff_code rfl r, nodeRow_iff_code rfl r,
      nodeRow_iff_code rfl r, nodeRow_iff_code rfl r, nodeRow_iff_code rfl r, nodeRow_iff_code rfl r,
      nodeRow_iff_code rfl r, nodeRow_iff_code rfl r, Iff.rfl, Iff.rfl, Iff.rfl, nodeRow_iff_code rfl r,
      nodeRow_iff_code rfl r, nodeRow_iff_code rfl r, nodeRow_iff_code rfl r, nodeRow_iff_code rfl r,
      nodeRow_iff_code rfl r, nodeRow_iff_code rfl r, nodeRow_iff_code rfl r, nodeRow_unknown_iff r⟩
  · have row : r.row = broadcastRow r := by simp [Request.row, broadcast]
    rw [row]
    exact broadcastRow_iff r
  · cases k <;> rfl
  · cases b <;> rfl
  · cases c <;> rfl
  · cases d <;> rfl
  · cases p <;> rfl
  · cases n <;> rfl
  · cases c <;> rfl
  · cases c <;> rfl

end Sys2Proof.Machine
end

section
/-! Requests answered within their take (08, R128 to R131). A take reserves the lowest FREE reply entry, the request's action
gives the answer, and the answer is placed behind the queue. Most actions change nothing themselves. -/

namespace Sys2Proof.Machine

/-! ### The take and its answer -/

/-- The part as the action of a node-addressed request finds it: the request taken, a reply entry reserved (08, R128). -/
def State.reserving (rest : List Request) (k : Fin 4) (u : State) : State := (u.dequeue rest).markReply k .reserved

theorem freeReply_dequeue (rest : List Request) (u : State) : (u.dequeue rest).freeReply = u.freeReply :=
  freeReply_congr rfl

theorem reserving_eq (rest : List Request) (k : Fin 4) (u : State) : u.reserving rest k = { u with
    tx := (u.reserving rest k).tx
    engine := { u.engine with requests := rest }
    counters := (u.count Counter.requestsTaken).counters } := rfl

theorem placeReply_eq (k : Fin 4) (c : Reply) (x : State) : x.placeReply k c = { x with tx := (x.placeReply k c).tx } := rfl

/-- A take whose row answers within it (08, R128, R129). -/
theorem exec_answered {row : TakeRow} {h : Request → State → Answer} {r : Request} {rest : List Request} {s : State}
    {k : Fin 4} (act : row.act = State.answered h) (taken : s.finish.takes row r rest) (free : s.finish.freeReply = some k) :
    exec row.command s = .next ((h r (s.finish.reserving rest k)).state.placeReply k
      (r.echo (h r (s.finish.reserving rest k)).result (h r (s.finish.reserving rest k)).data)) := by
  rw [exec_take taken, act, answered_eq free]
  rfl

/-- The reply of an answer that leaves the queue and the reply entries to it. -/
theorem replied_of_answer {u : State} {r : Request} {rest : List Request} {k : Fin 4} {a : Answer} (law : u.queueLaw)
    (free : u.freeReply = some k) (kept : a.state.tx = (u.reserving rest k).tx) :
    u.replied r a.result a.data (a.state.placeReply k (r.echo a.result a.data)) :=
  replied_of_placeReply law free (by rw [kept]; rfl) (by rw [kept]; rfl) ⟨_, by rw [kept]; rfl⟩

theorem onlyAnswers_placeReply (rest : List Request) (k : Fin 4) (c : Reply) (u : State) :
    State.onlyAnswers rest u ((u.reserving rest k).placeReply k c) := by
  rw [State.onlyAnswers, placeReply_eq, reserving_eq]

/-- A request whose action changes nothing is answered, and that is all (08, R131). -/
theorem exec_only_answers {row : TakeRow} {h : Request → State → Answer} {r : Request} {rest : List Request} {s : State}
    (act : row.act = State.answered h) (taken : s.finish.takes row r rest) (law : s.finish.queueLaw)
    (free : ∃ k, s.finish.freeReply = some k) (unchanged : ∀ x, (h r x).state = x) :
    ∃ k t, exec row.command s = .next t ∧ State.onlyAnswers rest s.finish t ∧
      s.finish.replied r (h r (s.finish.reserving rest k)).result (h r (s.finish.reserving rest k)).data t := by
  obtain ⟨k, hk⟩ := free
  have same := unchanged (s.finish.reserving rest k)
  refine ⟨k, _, exec_answered act taken hk, ?_, replied_of_answer (rest := rest) law hk (by rw [same])⟩
  rw [same]
  exact onlyAnswers_placeReply rest k _ _

/-- A request whose action changes nothing and is refused by one of its tests. -/
theorem replied_refused {a : Answer} {result : ResultCode} {x u t : State} {r : Request} (answer : a = x.refuse result)
    (h : u.replied r a.result a.data t) : u.replied r result [] t := by
  subst answer
  exact h

/-- A request whose action changes nothing and is answered OK. -/
theorem replied_okay {a : Answer} {data : List Byte} {x u t : State} {r : Request} (answer : a = x.okay data)
    (h : u.replied r a.result a.data t) : u.replied r .ok data t := by
  subst answer
  exact h

/-! ### Mailbox numbers -/

theorem mailboxOf_of_eq {b : Byte} {m : Fin 32} (h : b.toNat = m.val) : mailboxOf b = some m := by
  have low : b.toNat < 32 := h ▸ m.isLt
  rw [mailboxOf, dif_pos low]
  exact congrArg some (Fin.ext h)

theorem mailboxOf_high {b : Byte} (h : 31 < b.toNat) : mailboxOf b = none :=
  dif_neg (by omega)

/-! ### PROBE (08, R137) -/

theorem editState_eq (x : State) :
    x.editState = if x.engine.owner = none then 0 else if x.engine.commit = none then 1 else 2 := by
  unfold State.editState
  cases x.engine.owner <;> cases x.engine.commit <;> rfl

theorem role_code (c : RingRole) : c.code = if c = .master then 1 else 0 := by
  cases c <;> rfl

theorem port_code (c : PortState) : c.code = if c = .silent then 1 else 0 := by
  cases c <;> rfl

theorem answerProbe_eq (r : Request) (x : State) : answerProbe r x = x.okay [0x21, (if x.role = .master then 1 else 0),
    x.ring.lock.code, (if x.bus.port = .silent then 1 else 0),
    (if x.engine.owner = none then 0 else if x.engine.commit = none then 1 else 2) +
      (if x.notices.latched &&& x.notices.enabled = 0 then 0 else 16)] := by
  rw [answerProbe, editState_eq, role_code, port_code]
  rfl

/-- Settles O33: the answer of PROBE names five of the part's states, and its action changes none. -/
theorem probeReports : Obligations.ProbeReports := by
  intro r rest s u taken law
  obtain ⟨k, t, executed, only, replied⟩ := exec_only_answers (row := .probe) rfl taken law
    (free_of_takes taken nofun nofun nofun nofun) (fun _ => rfl)
  exact ⟨t, executed, only, replied_okay (answerProbe_eq r (u.reserving rest k)) replied⟩

/-! ### READ_CONFIG (08, R138, R139) -/

theorem answerReadConfig_state (r : Request) (x : State) : (answerReadConfig r x).state = x := by
  unfold answerReadConfig
  dsimp only
  (repeat' split) <;> rfl

/-- The tests of a READ_CONFIG before it reads (08, R138). -/
def Request.readsConfig (r : Request) : Prop := 6 ≤ r.data.length ∧ (r.byte 2).toNat ≤ 1 ∧ (r.byte 3).toNat ≤ 2

/-- The image a READ_CONFIG reads: staging or active (08, R138). -/
def Request.image (r : Request) (x : State) : Image := if r.byte 2 = 0 then x.staging else x.active

theorem answerReadConfig_malformed {r : Request} (h : ¬ r.readsConfig) (x : State) :
    answerReadConfig r x = x.refuse .badValue := by
  unfold Request.readsConfig at h
  unfold answerReadConfig
  split
  · rfl
  · rw [if_pos (by omega)]

theorem answerReadConfig_read {r : Request} (h : r.readsConfig) (x : State) : answerReadConfig r x =
    match (r.image x).read (r.byte 3).toNat (r.byte 4).toNat (r.byte 5).toNat with
    | some data => x.okay data
    | none => x.refuse .badIndex := by
  obtain ⟨long, image, table⟩ := h
  rw [answerReadConfig, if_neg (by omega), if_neg (by omega)]
  rfl

theorem answerReadConfig_none {r : Request} (h : r.readsConfig) {x : State}
    (read : (r.image x).read (r.byte 3).toNat (r.byte 4).toNat (r.byte 5).toNat = none) :
    answerReadConfig r x = x.refuse .badIndex := by
  rw [answerReadConfig_read h, read]

theorem answerReadConfig_some {r : Request} (h : r.readsConfig) {x : State} {data : List Byte}
    (read : (r.image x).read (r.byte 3).toNat (r.byte 4).toNat (r.byte 5).toNat = some data) :
    answerReadConfig r x = x.okay data := by
  rw [answerReadConfig_read h, read]

theorem Image.read_box (i : Image) (m : Fin 32) {part : Nat} (h : part ≤ 2) :
    i.read 0 m.val part = some (MailboxConfig.fields i.boxes[m] part) := by
  simp [Image.read, h]

theorem Image.read_box_none (i : Image) {index part : Nat} (h : 31 < index ∨ 2 < part) : i.read 0 index part = none := by
  simp only [Image.read]
  split
  · rw [if_neg (by omega)]
  · rfl

theorem Image.read_slot (i : Image) (n : Fin 64) :
    i.read 1 n.val 0 = some [(i.slots[n]).role.code, BitVec.ofNat 8 (i.slots[n]).mailbox.val] := by
  rw [← Image.slot_fin]
  simp [Image.read]

theorem Image.read_slot_none (i : Image) {index part : Nat} (h : 63 < index ∨ part ≠ 0) : i.read 1 index part = none :=
  if_neg (by omega)

theorem Image.read_profile (i : Image) {index : Nat} (low : 1 ≤ index) (high : index ≤ 9) :
    i.read 2 index 0 = some (bytesOf (i.profile.value index)) :=
  if_pos ⟨low, high, rfl⟩

theorem Image.read_profile_none (i : Image) {index part : Nat} (h : index = 0 ∨ 9 < index ∨ part ≠ 0) :
    i.read 2 index part = none :=
  if_neg (by omega)

/-- Settles O37: the two tests, then the read of the image by table, index and part. -/
theorem readConfigReadsAnImage : Obligations.ReadConfigReadsAnImage := by
  intro r rest s u i good taken law
  obtain ⟨k, t, executed, only, replied⟩ := exec_only_answers (row := .readConfig) rfl taken law
    (free_of_takes taken nofun nofun nofun nofun) (answerReadConfig_state r)
  have refused (h : good) (table : Byte) (at_table : r.byte 3 = table)
      (read : i.read table.toNat (r.byte 4).toNat (r.byte 5).toNat = none) : u.replied r .badIndex [] t :=
    replied_refused (answerReadConfig_none h (at_table ▸ read)) replied
  have answered (h : good) (table part : Byte) (at_table : r.byte 3 = table) (at_part : r.byte 5 = part) {data : List Byte}
      (read : i.read table.toNat (r.byte 4).toNat part.toNat = some data) : u.replied r .ok data t :=
    replied_okay (answerReadConfig_some h (at_table ▸ at_part ▸ read)) replied
  have part {n : Byte} (h : r.byte 5 ≠ n) : (r.byte 5).toNat ≠ n.toNat := fun e => h (BitVec.eq_of_toNat_eq e)
  refine ⟨t, executed, only, fun h => replied_refused (answerReadConfig_malformed h _) replied, fun h box out => ?_,
    fun h slot out => ?_, fun h profile out => ?_, fun m h box index => ⟨fun part => ?_, fun part => ?_, fun part => ?_⟩,
    fun n h slot index part => ?_, fun h profile low high part => ?_⟩
  · exact refused h 0 box (i.read_box_none out)
  · exact refused h 1 slot (i.read_slot_none (out.imp_right part))
  · exact refused h 2 profile (i.read_profile_none (out.imp_right (Or.imp_right part)))
  · exact answered h 0 0 box part (index ▸ i.read_box m (by decide))
  · exact answered h 0 1 box part (index ▸ i.read_box m (by decide))
  · exact answered h 0 2 box part (index ▸ i.read_box m (by decide))
  · exact answered h 1 0 slot part (index ▸ i.read_slot n)
  · exact answered h 2 0 profile part (i.read_profile low high)

/-! ### READ_MAILBOX (08, R140 to R143) -/

theorem answerReadMailboxPart0_state (r : Request) (x : State) : (answerReadMailboxPart0 r x).state = x := by
  unfold answerReadMailboxPart0
  dsimp only
  (repeat' split) <;> rfl

theorem answerReadMailboxPart0_short {r : Request} (short : r.data.length < 4) (x : State) :
    answerReadMailboxPart0 r x = x.refuse .badValue :=
  if_pos short

theorem answerReadMailboxPart0_out {r : Request} (long : 4 ≤ r.data.length)
    (out : 31 < (r.byte 2).toNat ∨ 2 < (r.byte 3).toNat) (x : State) :
    answerReadMailboxPart0 r x = x.refuse .badIndex := by
  rw [answerReadMailboxPart0, if_neg (Nat.not_lt.mpr long)]
  split
  · rfl
  · rename_i m named
    have part : r.byte 3 ≠ 0 := by
      intro zero
      rcases out with mailbox | part
      · simp [mailboxOf_high mailbox] at named
      · simp [zero] at part
    rw [if_pos part]

/-- Part 0 by the kind of the mailbox (08, R141; 01, R16). -/
theorem answerReadMailboxPart0_read {r : Request} {m : Fin 32} (long : 4 ≤ r.data.length) (named : (r.byte 2).toNat = m.val)
    (part : r.byte 3 = 0) (x : State) : answerReadMailboxPart0 r x = x.okay
      (if (x.config m).kind = .unused then [0, 0, 0, 0, 0] else
        [(x.box m).state.code, (if (x.config m).kind = .feed then 0 else (x.box m).classSeen.code),
          BitVec.ofNat 8 (x.box m).dataLength, (x.box m).age, (x.box m).generation]) := by
  rw [answerReadMailboxPart0, if_neg (Nat.not_lt.mpr long), mailboxOf_of_eq named]
  dsimp only
  rw [if_neg (not_not.mpr part)]
  cases (x.config m).kind <;> rfl

/-- Settles O38: the tests of part 0, then the mailbox by its kind. -/
theorem readMailboxStateReads : Obligations.ReadMailboxStateReads := by
  intro r rest s u taken law
  obtain ⟨k, t, executed, only, replied⟩ := exec_only_answers (row := .readMailboxPart0) rfl taken law
    (free_of_takes taken nofun nofun nofun nofun) (answerReadMailboxPart0_state r)
  refine ⟨t, executed, only, fun short => replied_refused (answerReadMailboxPart0_short short _) replied,
    fun long out => replied_refused (answerReadMailboxPart0_out long out _) replied,
    fun m long named part => ?_⟩
  have read := replied_okay (answerReadMailboxPart0_read long named part (u.reserving rest k)) replied
  have kind : ((u.reserving rest k).config m).kind = (u.config m).kind := rfl
  rw [kind] at read
  refine ⟨fun unused => ?_, fun used => ?_⟩
  · rwa [if_pos unused] at read
  · rwa [if_neg used] at read

theorem answerCapture_out {r : Request} (out : 31 < (r.byte 2).toNat) (x : State) :
    answerCapture r x = x.refuse .badIndex := by
  rw [answerCapture, mailboxOf_high out]

/-- The read hold that a capture of mailbox m makes (08, R142). -/
def State.captured (m : Fin 32) (x : State) : State := { x with
  engine := { x.engine with hold := { valid := true, mailbox := m, data := (x.box m).data, changed := false } } }

theorem answerCapture_read {r : Request} {m : Fin 32} (named : (r.byte 2).toNat = m.val) (x : State) :
    answerCapture r x = (x.captured m).okay ((x.box m).data.toList.take 5) := by
  rw [answerCapture, mailboxOf_of_eq named]
  rfl

theorem captured_reserving (rest : List Request) (k : Fin 4) (m : Fin 32) (u : State) :
    (u.reserving rest k).captured m = { u with
      tx := (u.reserving rest k).tx
      engine := { u.engine with
        requests := rest
        hold := { valid := true, mailbox := m, data := (u.box m).data, changed := false } }
      counters := (u.count 107).counters } := rfl

/-- All that an answered capture changes (08, R142). -/
theorem captured_placeReply (rest : List Request) (k : Fin 4) (c : Reply) (m : Fin 32) (u : State) :
    ((u.reserving rest k).captured m).placeReply k c = { u with
      tx := (((u.reserving rest k).captured m).placeReply k c).tx
      engine := { u.engine with
        requests := rest
        hold := { valid := true, mailbox := m, data := (u.box m).data, changed := false } }
      counters := (u.count 107).counters } := by
  rw [placeReply_eq, captured_reserving]

theorem answerReadMailboxPart2_state (r : Request) (x : State) : (answerReadMailboxPart2 r x).state = x := by
  unfold answerReadMailboxPart2
  dsimp only
  (repeat' split) <;> rfl

theorem answerReadMailboxPart2_out {r : Request} (out : 31 < (r.byte 2).toNat) (x : State) :
    answerReadMailboxPart2 r x = x.refuse .badIndex := by
  rw [answerReadMailboxPart2, mailboxOf_high out]

theorem answerReadMailboxPart2_held {r : Request} {m : Fin 32} {x : State} (named : (r.byte 2).toNat = m.val)
    (held : x.engine.hold.valid = true ∧ x.engine.hold.mailbox = m) : answerReadMailboxPart2 r x = x.okay
      (x.engine.hold.data.toList.drop 5 ++ [BitVec.ofNat 8 m.val, if x.engine.hold.changed then 1 else 0]) := by
  rw [answerReadMailboxPart2, mailboxOf_of_eq named]
  dsimp only
  rw [if_pos held, held.2]
  rfl

theorem answerReadMailboxPart2_unheld {r : Request} {m : Fin 32} {x : State} (named : (r.byte 2).toNat = m.val)
    (unheld : ¬ (x.engine.hold.valid = true ∧ x.engine.hold.mailbox = m)) :
    answerReadMailboxPart2 r x = x.refuse .noHold := by
  rw [answerReadMailboxPart2, mailboxOf_of_eq named]
  exact if_neg unheld

/-- Settles O39: a capture by the mailbox it names, and part 2 by what the hold is valid for. -/
theorem readHoldIsCapturedAndRead : Obligations.ReadHoldIsCapturedAndRead := by
  intro r rest s u law
  refine ⟨fun taken => ?_, fun taken => ?_⟩
  · obtain ⟨k, free⟩ := free_of_takes taken nofun nofun nofun nofun
    refine ⟨_, exec_answered (row := .capture) rfl taken free, fun out => ?_, fun m named => ?_⟩
    · rw [answerCapture_out out]
      exact ⟨onlyAnswers_placeReply rest k _ u,
        replied_of_answer (a := (u.reserving rest k).refuse .badIndex) law free rfl⟩
    · rw [answerCapture_read named]
      exact ⟨replied_of_answer (a := ((u.reserving rest k).captured m).okay ((u.box m).data.toList.take 5)) law free rfl,
        captured_placeReply rest k _ m u⟩
  · obtain ⟨k, t, executed, only, replied⟩ := exec_only_answers (row := .readMailboxPart2) rfl taken law
      (free_of_takes taken nofun nofun nofun nofun) (answerReadMailboxPart2_state r)
    exact ⟨t, executed, only, fun out => replied_refused (answerReadMailboxPart2_out out _) replied,
      fun m named => ⟨fun held => replied_okay (answerReadMailboxPart2_held (x := u.reserving rest k) named held) replied,
        fun unheld => replied_refused (answerReadMailboxPart2_unheld (x := u.reserving rest k) named unheld) replied⟩⟩

/-! ### READ_COUNTERS (08, R144) -/

theorem answerReadCounters_state (r : Request) (x : State) : (answerReadCounters r x).state = x := by
  unfold answerReadCounters
  dsimp only
  (repeat' split) <;> rfl

theorem answerReadCounters_short {r : Request} (short : r.data.length < 3) (x : State) :
    answerReadCounters r x = x.refuse .badValue :=
  if_pos short

theorem answerReadCounters_out {r : Request} (long : 3 ≤ r.data.length) (out : 110 < (r.byte 2).toNat) (x : State) :
    answerReadCounters r x = x.refuse .badIndex := by
  rw [answerReadCounters, if_neg (Nat.not_lt.mpr long), if_pos out]

theorem answerReadCounters_read {r : Request} (long : 3 ≤ r.data.length) (low : (r.byte 2).toNat ≤ 110) (x : State) :
    answerReadCounters r x = x.okay (bytesOf (x.counters.snapAt (r.byte 2).toNat) ++
      bytesOf (x.counters.snapAt ((r.byte 2).toNat + 1)) ++ [x.counters.sequence.setWidth 8]) := by
  rw [answerReadCounters, if_neg (Nat.not_lt.mpr long), if_neg (Nat.not_lt.mpr low)]

/-- The two bytes of a 16-bit value, high byte first (08, 8.12). -/
theorem bytesOf_toNat (x : BitVec 16) : bytesOf x.toNat = [(x >>> 8).setWidth 8, x.setWidth 8] := by
  have high : BitVec.ofNat 8 (x.toNat / 256) = (x >>> 8).setWidth 8 := by
    apply BitVec.eq_of_toNat_eq
    simp [Nat.shiftRight_eq_div_pow]
  have low : BitVec.ofNat 8 x.toNat = x.setWidth 8 := by
    apply BitVec.eq_of_toNat_eq
    simp
  rw [bytesOf, high, low]

theorem snapAt_bytes (c : CounterBank) {k : Nat} (h : k < 111) :
    bytesOf (c.snapAt k) = [(c.snap[k] >>> 8).setWidth 8, (c.snap[k]).setWidth 8] := by
  rw [CounterBank.snapAt, dif_pos h, bytesOf_toNat]

/-- Above the last counter the bank reads 0 (08, R144). -/
theorem snapAt_beyond (c : CounterBank) : bytesOf (c.snapAt (110 + 1)) = [0, 0] := by
  rw [CounterBank.snapAt, dif_neg (by decide)]
  rfl

/-- Settles O40: the two tests, then two counters of the snapshot bank, the second 0 above the last. -/
theorem readCountersReadsTheSnapshot : Obligations.ReadCountersReadsTheSnapshot := by
  intro r rest s u k taken law
  obtain ⟨j, t, executed, only, replied⟩ := exec_only_answers (row := .readCounters) rfl taken law
    (free_of_takes taken nofun nofun nofun nofun) (answerReadCounters_state r)
  refine ⟨t, executed, only, fun short => replied_refused (answerReadCounters_short short _) replied,
    fun long out => replied_refused (answerReadCounters_out long out _) replied, fun long low => ?_, fun long last => ?_⟩
  · have read := replied_okay (answerReadCounters_read long (Nat.le_of_lt low) (u.reserving rest j)) replied
    have first : k < 111 := Nat.lt_succ_of_lt low
    have second : k + 1 < 111 := Nat.succ_lt_succ low
    rw [snapAt_bytes _ first, snapAt_bytes _ second] at read
    exact read
  · have read := replied_okay (answerReadCounters_read long (Nat.le_of_eq last) (u.reserving rest j)) replied
    have number : (r.byte 2).toNat = 110 := last
    rw [number, snapAt_bytes _ (by decide), snapAt_beyond] at read
    exact read

/-! ### RESTART (08, R146) -/

theorem actRestart_active {r : Request} {x : State} {k : Fin 4} (free : x.freeReply = some k)
    (port : x.bus.port = .active) : actRestart r x =
      { x.placeReply k (r.echo .ok []) with engine := { x.engine with waiting := some k } } := by
  simp only [actRestart, free, port]
  rfl

theorem actRestart_silent {r : Request} {x : State} {k : Fin 4} (free : x.freeReply = some k)
    (port : x.bus.port = .silent) : actRestart r x = { x with restartDue := true } := by
  simp only [actRestart, free, port]

/-- The take of RESTART in ACTIVE: the reply is placed and waited for, and nothing else changes. -/
theorem restart_waits {r : Request} {k : Fin 4} {u : State} (rest : List Request) (law : u.queueLaw)
    (free : u.freeReply = some k) (port : u.bus.port = .active) : ∃ t,
      actRestart r (u.dequeue rest) = t ∧ u.replied r .ok [] t ∧ (t.reply k).status = .queued ∧
      t = { u with
        tx := t.tx
        engine := { u.engine with requests := rest, waiting := some k }
        counters := (u.count 107).counters } := by
  have replied : u.replied r .ok [] ((u.dequeue rest).placeReply k (r.echo .ok [])) :=
    replied_of_placeReply law free rfl rfl ⟨u.reply k, by simp [State.reply]⟩
  refine ⟨_, actRestart_active ((freeReply_dequeue rest u).trans free) port, replied, ?_, ?_⟩
  · simp [State.reply, placeReply_replies]
  · rw [placeReply_eq]
    rfl

/-- The take of RESTART in SILENT: nothing is placed, and the restart is due at once. -/
theorem restart_due {r : Request} {k : Fin 4} {u : State} (rest : List Request) (free : u.freeReply = some k)
    (port : u.bus.port = .silent) : actRestart r (u.dequeue rest) = { State.taken rest u with restartDue := true } :=
  actRestart_silent ((freeReply_dequeue rest u).trans free) port

/-- Settles O41: the take of RESTART by the port state. -/
theorem restartWaitsForItsReply : Obligations.RestartWaitsForItsReply := by
  intro r rest s u taken
  obtain ⟨k, free⟩ := free_of_takes taken nofun nofun nofun nofun
  have executed : exec .restart s = .next (actRestart r (u.dequeue rest)) := exec_take (row := .restart) taken
  refine ⟨fun port law => ?_, fun port => executed.trans (congrArg _ (restart_due rest free port))⟩
  obtain ⟨t, waits, replied, queued, frame⟩ := restart_waits (r := r) rest law free port
  exact ⟨t, k, executed.trans (congrArg _ waits), replied, queued, free, frame⟩

end Sys2Proof.Machine
end

section
/-! Broadcast requests (08, R130, R133, R135; 10, R176): DISCOVER, ASSIGN, and those that are discarded. -/

namespace Sys2Proof.Machine

/-! ### DISCOVER (08, R133) -/

theorem actDiscover_called {r : Request} {x : State} (called : r.byte 2 ≠ 0 ∨ x.engine.node = 0)
    (absent : x.hasQueued Owner.isDiscovery = false ∧ x.hasInFlight Owner.isDiscovery = false) :
    actDiscover r x = x.place .discovery := by
  have uncalled : ¬ (r.byte 2 = 0 ∧ x.engine.node ≠ 0) := by tauto
  obtain ⟨unqueued, landed⟩ := absent
  rw [actDiscover, if_neg uncalled, if_neg (by simp [unqueued, landed])]

theorem actDiscover_absorbed {r : Request} {x : State} (absorbed : ¬ ((r.byte 2 ≠ 0 ∨ x.engine.node = 0) ∧
    x.hasQueued Owner.isDiscovery = false ∧ x.hasInFlight Owner.isDiscovery = false)) : actDiscover r x = x := by
  unfold actDiscover
  split
  · rfl
  · rename_i called
    rw [if_pos]
    by_contra absent
    rw [Bool.or_eq_true, not_or, Bool.not_eq_true, Bool.not_eq_true] at absent
    exact absorbed ⟨by tauto, absent⟩

theorem place_eq (o : Owner) (x : State) : x.place o = { x with tx := (x.place o).tx } := rfl

theorem onlyAnswers_place (rest : List Request) (o : Owner) (u : State) :
    State.onlyAnswers rest u ((u.dequeue rest).place o) := by
  rw [State.onlyAnswers, place_eq]
  rfl

/-- Settles O35: DISCOVER by whether it calls the part, and a discarded request by its counter. -/
theorem discoverCallsThePart : Obligations.DiscoverCallsThePart := by
  intro r rest s u absent called
  refine ⟨fun taken law => ⟨fun calls => ?_, fun absorbed => ?_⟩, fun taken => exec_take (row := .broadcastDiscard) taken⟩
  · obtain ⟨names, none_exists⟩ := calls
    have executed : exec .discover s = .next (actDiscover r (u.dequeue rest)) := exec_take (row := .discover) taken
    rw [actDiscover_called (x := u.dequeue rest) names none_exists] at executed
    exact ⟨_, executed, onlyAnswers_place rest .discovery u, placedBehind_of_place law .discovery rfl rfl, rfl⟩
  · have executed : exec .discover s = .next (actDiscover r (u.dequeue rest)) := exec_take (row := .discover) taken
    rwa [actDiscover_absorbed (x := u.dequeue rest) absorbed] at executed

/-! ### ASSIGN (08, R135) -/

/-- The reply to an ASSIGN (08, R135). -/
def assignReply : Reply := { code := 0x03, tag := 0, result := .ok, data := [] }

/-- The part with a node number. -/
def State.numbered (n : BitVec 6) (x : State) : State := { x with engine := { x.engine with node := n } }

/-- An offer, if there is one to make. -/
def State.offerIf (makes : Prop) [Decidable makes] (x : State) : State := if makes then x.offer else x

/-- The ASSIGN names this part by its serial (08, R135). -/
def Request.names (r : Request) (x : State) : Prop := (r.data.drop 2).take 6 = x.engine.serial.toList

theorem actAssign_foreign {r : Request} {x : State} (foreign : ¬ r.names x) : actAssign r x = x :=
  if_neg foreign

theorem setWidth_tag_toNat {r : Request} (number : r.tag.toNat ≤ 63) : (r.tag.setWidth 6).toNat = r.tag.toNat := by
  rw [BitVec.toNat_setWidth]
  omega

theorem setWidth_tag_eq_zero {r : Request} (number : r.tag.toNat ≤ 63) : r.tag.setWidth 6 = 0 ↔ r.tag = 0 := by
  rw [← BitVec.toNat_inj, ← BitVec.toNat_inj, setWidth_tag_toNat number]
  rfl

theorem actAssign_cleared {r : Request} {x : State} (own : r.names x) (zero : r.tag.setWidth 6 = 0) :
    actAssign r x = x.numbered (r.tag.setWidth 6) := by
  exact (if_pos own).trans (if_pos zero)

theorem actAssign_numbered {r : Request} {x : State} (own : r.names x) (number : r.tag.setWidth 6 ≠ 0) :
    actAssign r x = ((x.numbered (r.tag.setWidth 6)).placeFreeReply assignReply).offerIf
      (x.engine.node = 0 ∧ ((x.numbered (r.tag.setWidth 6)).placeFreeReply assignReply).enabledLatched ≠ 0) := by
  exact (if_pos own).trans (if_neg number)

/-- An offer is made or not after what an event has placed before it (10, R176). -/
theorem offered_offerIf {owners : List Owner} {u v : State} {makes : Prop} [Decidable makes]
    (placed : u.placedInOrder owners v) (others : ∀ o ∈ owners, o.isNotice = false)
    (flight : v.hasInFlight Owner.isNotice = u.hasInFlight Owner.isNotice)
    (stamps : ∀ x ∈ v.tx.queued, x.stamp < v.tx.epoch * 64 + 40) (notices : v.notices = u.notices) :
    u.offered owners makes (v.offerIf makes) := by
  unfold State.offerIf
  split
  · rename_i makes
    exact offered_offer makes placed others flight (fun _ => stamps) (by rw [notices]) (by rw [notices])
  · rename_i makes
    exact offered_none makes placed (by rw [notices]) (by rw [notices])

theorem offerIf_eq (makes : Prop) [Decidable makes] (x : State) : x.offerIf makes = { x with
    tx := { x.tx with queued := (x.offerIf makes).tx.queued }
    notices := { x.notices with
      deferred := (x.offerIf makes).notices.deferred, repeatCount := (x.offerIf makes).notices.repeatCount } } := by
  unfold State.offerIf
  split
  · exact offer_eq x
  · rfl

/-- All but the queue and the notice unit of a part that has been numbered, its reply placed, and an offer made or not. -/
def State.assigned (rest : List Request) (n : BitVec 6) (counters : CounterBank) (u t : State) : Prop :=
  t = { u with
    tx := t.tx
    engine := { u.engine with requests := rest, node := n }
    notices := { u.notices with repeatCount := t.notices.repeatCount, deferred := t.notices.deferred }
    counters := counters }

theorem assigned_offerIf {rest : List Request} {n : BitVec 6} {counters : CounterBank} {u v : State}
    (h : State.assigned rest n counters u v) (makes : Prop) [Decidable makes] :
    State.assigned rest n counters u (v.offerIf makes) := by
  unfold State.assigned at h ⊢
  have frame := offerIf_eq makes v
  generalize v.offerIf makes = t at frame ⊢
  rw [frame, h]

theorem node_counters_of_assigned {rest : List Request} {n : BitVec 6} {counters : CounterBank} {u t : State}
    (h : State.assigned rest n counters u t) : t.engine.node = n ∧ t.counters = counters := by
  rw [h]
  exact ⟨rfl, rfl⟩

/-- The part taken and numbered, before the reply. -/
def State.assigning (rest : List Request) (n : BitVec 6) (u : State) : State := (u.dequeue rest).numbered n

theorem assigning_assigned (rest : List Request) (n : BitVec 6) (u : State) :
    State.assigned rest n (u.count 107).counters u (u.assigning rest n) := rfl

/-- What was queued before an event stands before all that the event places (06, R98). -/
theorem assigning_stamps {u : State} (law : u.queueLaw) (rest : List Request) (n : BitVec 6) :
    ∀ x ∈ (u.assigning rest n).tx.queued, x.stamp < (u.assigning rest n).tx.epoch * 64 := by
  obtain ⟨queued, -, -⟩ := law
  exact fun x hx => Nat.mul_comm 64 _ ▸ queued x hx

theorem assigning_placedInOrder (rest : List Request) (n : BitVec 6) (u : State) :
    u.placedInOrder [] (u.assigning rest n) :=
  (placedInOrder_nil _ _).mpr rfl

/-- The reply placed behind the queue (08, R129; 06, R97). -/
def State.assignedReply (rest : List Request) (n : BitVec 6) (k : Fin 4) (u : State) : State :=
  (u.assigning rest n).placeReply k assignReply

theorem assignedReply_assigned (rest : List Request) (n : BitVec 6) (k : Fin 4) (u : State) :
    State.assigned rest n (u.count 107).counters u (u.assignedReply rest n k) := by
  rw [State.assigned, State.assignedReply, placeReply_eq]
  rfl

theorem assignedReply_placedInOrder {u : State} (law : u.queueLaw) (rest : List Request) (n : BitVec 6) (k : Fin 4) :
    u.placedInOrder [.reply k] (u.assignedReply rest n k) :=
  placedInOrder_one (v := (u.assigning rest n).setReply k { status := .queued, content := assignReply }) rfl
    (assigning_stamps law rest n)

theorem assignedReply_stamps {u : State} (law : u.queueLaw) (rest : List Request) (n : BitVec 6) (k : Fin 4) :
    ∀ x ∈ (u.assignedReply rest n k).tx.queued, x.stamp < (u.assignedReply rest n k).tx.epoch * 64 + 40 := by
  intro x hx
  have epoch : (u.assignedReply rest n k).tx.epoch = (u.assigning rest n).tx.epoch := rfl
  rw [epoch]
  rcases mem_insertEntry.mp hx with rfl | waiting
  · simp only [Owner.rank, State.setReply]
    omega
  · have := assigning_stamps law rest n x waiting
    omega

theorem assignedReply_kept (rest : List Request) (n : BitVec 6) (k : Fin 4) (u : State) :
    (u.assignedReply rest n k).bus.flight = u.bus.flight ∧ (u.assignedReply rest n k).notices = u.notices := by
  simp [State.assignedReply, State.assigning, State.numbered, State.dequeue]

/-- The reply lost (08, R129). -/
def State.assignedLost (rest : List Request) (n : BitVec 6) (u : State) : State :=
  (u.assigning rest n).count Counter.repliesLost

theorem assignedLost_assigned (rest : List Request) (n : BitVec 6) (u : State) :
    State.assigned rest n ((u.count 107).count 110).counters u (u.assignedLost rest n) := by
  rw [State.assigned]
  rfl

theorem assignedLost_kept (rest : List Request) (n : BitVec 6) (u : State) :
    (u.assignedLost rest n).bus.flight = u.bus.flight ∧ (u.assignedLost rest n).notices = u.notices := by
  simp [State.assignedLost, State.assigning, State.numbered, State.dequeue]

/-- The NOTICE entry in flight is told by the frame in flight. -/
theorem hasInFlight_of_flight {u v : State} (flight : v.bus.flight = u.bus.flight) (p : Owner → Bool) :
    v.hasInFlight p = u.hasInFlight p := by
  rw [State.hasInFlight, inFlight_congr flight, State.hasInFlight]

theorem placeFreeReply_some {k : Fin 4} {x : State} (free : x.freeReply = some k) (c : Reply) :
    x.placeFreeReply c = x.placeReply k c := by
  rw [State.placeFreeReply, free]

theorem placeFreeReply_none {x : State} (full : x.freeReply = none) (c : Reply) :
    x.placeFreeReply c = x.count Counter.repliesLost := by
  rw [State.placeFreeReply, full]

/-- The take of an ASSIGN of a number that is not 0, by what its reply leaves (08, R135). -/
theorem actAssign_assigning {r : Request} {u v : State} (own : r.names u) (rest : List Request)
    (number : r.tag.setWidth 6 ≠ 0) (reply : (u.assigning rest (r.tag.setWidth 6)).placeFreeReply assignReply = v)
    (notices : v.notices = u.notices) :
    actAssign r (u.dequeue rest) = v.offerIf (u.engine.node = 0 ∧ u.enabledLatched ≠ 0) := by
  have latched : v.enabledLatched = u.enabledLatched := by rw [State.enabledLatched, notices, State.enabledLatched]
  subst reply
  rw [← latched]
  exact actAssign_numbered (x := u.dequeue rest) own number

section

variable {r : Request} {u : State} (own : r.names u)
include own

/-- An ASSIGN of the number 0 is not answered and makes no offer (08, R135). -/
theorem assign_zero (rest : List Request) (zero : r.tag.setWidth 6 = 0) : ∃ t, actAssign r (u.dequeue rest) = t ∧
    State.assigned rest (r.tag.setWidth 6) (u.count 107).counters u t ∧ t.tx.replies = u.tx.replies ∧
      u.offered [] False t :=
  ⟨_, actAssign_cleared own zero, assigning_assigned rest _ u, rfl,
    offered_none not_false (assigning_placedInOrder rest _ u) rfl rfl⟩

/-- An ASSIGN of another number is answered through the lowest FREE reply entry (08, R129, R135; 10, R176). -/
theorem assign_replied (law : u.queueLaw) (rest : List Request) {k : Fin 4} (number : r.tag.setWidth 6 ≠ 0)
    (free : u.freeReply = some k) : ∃ t, actAssign r (u.dequeue rest) = t ∧
      State.assigned rest (r.tag.setWidth 6) (u.count 107).counters u t ∧
      t.tx.replies = u.tx.replies.set k { status := .queued, content := assignReply } ∧
      u.offered [.reply k] (u.engine.node = 0 ∧ u.enabledLatched ≠ 0) t := by
  have free' : (u.assigning rest (r.tag.setWidth 6)).freeReply = some k := (freeReply_congr rfl).trans free
  obtain ⟨flight, notices⟩ := assignedReply_kept rest (r.tag.setWidth 6) k u
  refine ⟨_, actAssign_assigning own rest number (placeFreeReply_some free' assignReply) notices,
    assigned_offerIf (assignedReply_assigned rest _ k u) _, ?_,
    offered_offerIf (assignedReply_placedInOrder law rest _ k) (by simp [Owner.isNotice])
      (hasInFlight_of_flight flight _) (assignedReply_stamps law rest _ k) notices⟩
  rw [offerIf_eq]
  rfl

/-- Without a FREE reply entry the reply is lost and counted (08, R129, R135; 10, R176). -/
theorem assign_lost (law : u.queueLaw) (rest : List Request) (number : r.tag.setWidth 6 ≠ 0)
    (full : u.freeReply = none) : ∃ t, actAssign r (u.dequeue rest) = t ∧
      State.assigned rest (r.tag.setWidth 6) ((u.count 107).count 110).counters u t ∧ t.tx.replies = u.tx.replies ∧
      u.offered [] (u.engine.node = 0 ∧ u.enabledLatched ≠ 0) t := by
  have full' : (u.assigning rest (r.tag.setWidth 6)).freeReply = none := (freeReply_congr rfl).trans full
  obtain ⟨flight, notices⟩ := assignedLost_kept rest (r.tag.setWidth 6) u
  refine ⟨_, actAssign_assigning own rest number (placeFreeReply_none full' assignReply) notices,
    assigned_offerIf (assignedLost_assigned rest _ u) _, ?_,
    offered_offerIf (v := u.assignedLost rest _) ((placedInOrder_nil _ _).mpr rfl) nofun
      (hasInFlight_of_flight flight _)
      (fun x hx => Nat.lt_add_right 40 (assigning_stamps law rest (r.tag.setWidth 6) x hx)) notices⟩
  rw [offerIf_eq]
  rfl

end

/-- Settles O36: a foreign serial, then the number 0, a reply placed and a reply lost. -/
theorem assignSetsTheNode : Obligations.AssignSetsTheNode := by
  intro r rest s u own offers taken law
  obtain ⟨-, row, -⟩ := id taken
  have valid := tag_of_row_assign row
  have executed : exec .assign s = .next (actAssign r (u.dequeue rest)) := exec_take (row := .assign) taken
  refine ⟨fun foreign => executed.trans (congrArg _ (actAssign_foreign (x := u.dequeue rest) foreign)), fun own => ?_⟩
  have frame {counters : CounterBank} {t : State} (h : State.assigned rest (r.tag.setWidth 6) counters u t) :
      t.engine.node.toNat = r.tag.toNat ∧ State.assigned rest t.engine.node t.counters u t ∧ t.counters = counters := by
    obtain ⟨node, bank⟩ := node_counters_of_assigned h
    rw [node, bank]
    exact ⟨setWidth_tag_toNat valid, h, rfl⟩
  by_cases zero : r.tag = 0
  · obtain ⟨t, acts, assigned, replies, offered⟩ := assign_zero own rest ((setWidth_tag_eq_zero valid).mpr zero)
    obtain ⟨node, all, bank⟩ := frame assigned
    exact ⟨t, executed.trans (congrArg _ acts), node, all, fun _ => ⟨replies, offered, bank⟩,
      fun _ number => absurd zero number, fun number => absurd zero number⟩
  · have number := mt (setWidth_tag_eq_zero valid).mp zero
    cases free : u.freeReply with
    | some k =>
      obtain ⟨t, acts, assigned, replies, offered⟩ := assign_replied own law rest number free
      obtain ⟨node, all, bank⟩ := frame assigned
      refine ⟨t, executed.trans (congrArg _ acts), node, all, fun h => absurd h zero, fun j _ lowest => ?_, fun _ => nofun⟩
      obtain rfl := Option.some.inj lowest
      exact ⟨replies, offered, bank⟩
    | none =>
      obtain ⟨t, acts, assigned, replies, offered⟩ := assign_lost own law rest number free
      obtain ⟨node, all, bank⟩ := frame assigned
      exact ⟨t, executed.trans (congrArg _ acts), node, all, fun h => absurd h zero, fun _ _ => nofun,
        fun _ _ => ⟨replies, offered, bank⟩⟩

end Sys2Proof.Machine
end

section
/-! The performance of a restart (08, R147; 07, R123; 03, R55; logs 9 and 32). -/

namespace Sys2Proof.Machine

/-- The whole of a restart: the rounds are cut, and a frame in flight finishes. -/
theorem performRestart_eq (s : State) : s.performRestart = { State.reset with
    now := s.now
    windowClosed := s.windowClosed
    held := s.held
    ring := { State.reset.ring with timer := some { period := 1000, next := s.now + 16000 } }
    bus := { s.bus with port := .active, errors := 0, goods := 0, flight := s.bus.flight.map Flight.finish }
    engine := { State.reset.engine with node := s.engine.node, serial := s.engine.serial }
    rout := s.routCut
    btx := s.btx
    pending := s.pending } := by
  unfold State.performRestart
  rw [cutInbound_cutOutbound]
  rfl

theorem exec_restartPerformed {s : State} (closed : s.boundary = none) (due : s.restartDue = true) :
    exec .restartPerformed s = .next s.performRestart := by
  simp [exec, execRestartPerformed, closed, due]

/-- Settles O6: the restart as a whole, then the frame in flight by its kind. -/
theorem restartResetsAllButTheNode : Obligations.RestartResetsAllButTheNode := by
  intro s closed due
  have flight : s.performRestart.bus.flight = s.bus.flight.map Flight.finish := by rw [performRestart_bus]
  refine ⟨s.performRestart, exec_restartPerformed closed due, ?_, ?_⟩
  · rw [flight]
    exact performRestart_eq s
  · rw [flight]
    exact ⟨fun landed => by rw [landed]; rfl, fun e f attempt => by rw [attempt]; rfl,
      fun f finishing => by rw [finishing]; rfl⟩

end Sys2Proof.Machine
end

section
/-! A request frame at the bus port and at the request queue (07, R113 to R115, R121, R122; 08, R126). The port hears it as any
good frame; a RESUME_BUS request to this node ends SILENT if the frame itself has not; then it joins the queue or is dropped. -/

namespace Sys2Proof.Machine

/-! ### What the port hears of a request -/

/-- The good frame ends SILENT: the 64th in a row, or a RESUME_BUS request to this node (07, R121, R122). -/
def State.endsSilent (f : Frame) (u : State) : Prop :=
  u.bus.port = .silent ∧ (u.resumesBus f ∨ 64 ≤ u.bus.goods + 1)

theorem endsSilent_iff_lastGood {f : Frame} {u : State} (h : u.resumesBus f → u.bus.port = .silent → u.lastGood) :
    u.endsSilent f ↔ u.lastGood := by
  refine ⟨fun ⟨port, ends⟩ => ?_, fun ⟨port, sixtyFour⟩ => ⟨port, .inr sixtyFour⟩⟩
  rcases ends with resume | sixtyFour
  · exact h resume port
  · exact ⟨port, sixtyFour⟩

/-- All that a request frame changes before it reaches the request queue. -/
structure Admitted (f : Frame) (u y : State) : Prop where
  frame : y = { u with
    tx := { u.tx with queued := y.tx.queued }
    bus := y.bus
    notices := { u.notices with
      latched := y.notices.latched, deferred := y.notices.deferred, repeatCount := y.notices.repeatCount }
    counters := (u.count 101).counters
    btx := if u.bus.port = .active then u.btx ++ [.acknowledge] else u.btx }
  active : u.bus.port = .active → y.bus = { u.bus with line := .idle }
  resuming : u.endsSilent f → y.bus = { u.bus with line := .idle, port := .active, errors := 0, goods := 0 }
  counting : u.bus.port = .silent → ¬ u.endsSilent f → y.bus = { u.bus with line := .idle, goods := u.bus.goods + 1 }
  flight : y.bus.flight = u.bus.flight
  resumed : u.conditionEvent [] .busResumed (u.endsSilent f) y

/-- Where the class of a frame does not end SILENT, the port has heard all there is to hear. -/
theorem heard_admitted {f : Frame} {u : State} (stamps : ∀ e ∈ u.tx.queued, e.stamp < u.tx.epoch * 64)
    (ends : u.endsSilent f ↔ u.lastGood) : Admitted f u u.heard := by
  have h := heard_hears u
  refine ⟨h.frame, h.active, fun last => h.resuming (ends.mp last), fun port other => h.counting port (mt ends.mpr other),
    h.flight, ?_⟩
  have resumed := heard_conditionEvent stamps
  rwa [← propext ends] at resumed

/-- A RESUME_BUS request ends SILENT, short of the 64th good frame in a row (07, R122). -/
theorem leaveSilent_admitted {f : Frame} {u : State} (stamps : ∀ e ∈ u.tx.queued, e.stamp < u.tx.epoch * 64)
    (port : u.bus.port = .silent) (early : ¬ u.lastGood) (resume : u.resumesBus f) : Admitted f u u.heard.leaveSilent := by
  have ends : u.endsSilent f := ⟨port, .inl resume⟩
  have short : ¬ 64 ≤ u.bus.goods + 1 := fun sixtyFour => early ⟨port, sixtyFour⟩
  have silent : u.heard.bus.port = .silent := by rw [heard_counting port short]; exact port
  rw [leaveSilent_silent silent, heard_counting port short]
  refine ⟨?_, fun active => ?_, fun _ => by rw [latch_eq], fun _ other => absurd ends other, by rw [latch_eq],
    conditionEvent_latch ends ((placedInOrder_nil _ _).mpr rfl) nofun rfl (fun _ e he => ?_) rfl⟩
  · rw [latch_eq]
    simp [port]
  · simp [port] at active
  · exact Nat.lt_add_right 40 (stamps e he)

/-- The fast path of a request to this node, by whether it ends SILENT (07, R122). -/
theorem fastPath_admitted {f : Frame} {u : State} (stamps : ∀ e ∈ u.tx.queued, e.stamp < u.tx.epoch * 64)
    (own : u.addresses f) : Admitted f u (u.heard.fastPath f) := by
  have h := heard_hears u
  by_cases fast : 2 ≤ f.count ∧ f.bytes.getD 0 0 = 0x18
  · have resume : u.resumesBus f := (resumesBus_iff f u).mpr ⟨own, fast⟩
    rw [State.fastPath, if_pos fast]
    cases port : u.bus.port with
    | active =>
      have active : u.heard.bus.port = .active := by rw [h.active port]; exact port
      rw [leaveSilent_active active]
      exact heard_admitted stamps (endsSilent_iff_lastGood fun _ silent => by simp [port] at silent)
    | silent =>
      by_cases last : u.lastGood
      · have active : u.heard.bus.port = .active := by rw [h.resuming last]
        rw [leaveSilent_active active]
        exact heard_admitted stamps (endsSilent_iff_lastGood fun _ _ => last)
      · exact leaveSilent_admitted stamps port last resume
  · have other : ¬ u.resumesBus f := fun resume => fast ((resumesBus_iff f u).mp resume).2
    rw [State.fastPath, if_neg fast]
    exact heard_admitted stamps (endsSilent_iff_lastGood fun resume => absurd resume other)

/-- A broadcast is no request to this node (07, R114). -/
theorem not_resumesBus_of_broadcast {f : Frame} (broadcast : f.id = 0xF00) (u : State) : ¬ u.resumesBus f := by
  rintro ⟨node, id, -, -⟩
  have positive : u.engine.node.toNat ≠ 0 := fun zero => node (BitVec.eq_of_toNat_eq zero)
  have shared : f.id.toNat = 0xF00 := by rw [broadcast]; rfl
  omega

/-- A request frame reaches the request queue once the port has heard it (07, R114; 08, R126). -/
theorem classify_admitted {f : Frame} {u : State} (stamps : ∀ e ∈ u.tx.queued, e.stamp < u.tx.epoch * 64)
    (request : f.id = 0xF00 ∨ u.addresses f) :
    ∃ y, Admitted f u y ∧ u.heard.classify f = y.queueRequest (decide (f.id = 0xF00)) f := by
  by_cases broadcast : f.id = 0xF00
  · refine ⟨u.heard, heard_admitted stamps (endsSilent_iff_lastGood fun resume => ?_), ?_⟩
    · exact absurd resume (not_resumesBus_of_broadcast broadcast u)
    · rw [classify_broadcast broadcast, decide_eq_true broadcast]
  · have own := request.resolve_left broadcast
    refine ⟨u.heard.fastPath f, fastPath_admitted stamps own, ?_⟩
    rw [classify_request (((heard_hears u).addresses f).mpr own), decide_eq_false broadcast]

/-! ### The request queue -/

theorem queueRequest_short {f : Frame} (short : f.count < 2) (broadcast : Bool) (s : State) :
    s.queueRequest broadcast f = s.count 109 :=
  if_pos short

theorem queueRequest_full {f : Frame} {s : State} (long : 2 ≤ f.count) (full : 4 ≤ s.engine.requests.length)
    (broadcast : Bool) : s.queueRequest broadcast f = (s.count 108).latch .reqLost := by
  rw [State.queueRequest, if_neg (Nat.not_lt.mpr long)]
  exact if_pos full

theorem queueRequest_joins {f : Frame} {s : State} (long : 2 ≤ f.count) (room : ¬ 4 ≤ s.engine.requests.length)
    (broadcast : Bool) : s.queueRequest broadcast f = { s with engine := { s.engine with
      requests := s.engine.requests ++ [{ broadcast := broadcast, data := f.bytes }] } } := by
  rw [State.queueRequest, if_neg (Nat.not_lt.mpr long)]
  exact if_neg room

theorem Admitted.engine {f : Frame} {u y : State} (h : Admitted f u y) : y.engine = u.engine := by
  rw [h.frame]

theorem Admitted.counters {f : Frame} {u y : State} (h : Admitted f u y) : y.counters = (u.count 101).counters := by
  rw [h.frame]

theorem Admitted.notices {f : Frame} {u y : State} (h : Admitted f u y) : y.notices = (u.noted y).notices := by
  rw [h.frame]
  rfl

/-- What the port, the queue and the notice unit have of a request, if its second condition event is known (07, R121, R122;
10, R174). -/
theorem Admitted.hears {f : Frame} {c : Condition} {happens : Prop} {u y z : State} (h : Admitted f u y)
    (bus : z.bus = y.bus) (event : (u.noted y).conditionEvent [] c happens z) : u.hears f c happens z := by
  have resumed : u.conditionEvent [] .busResumed (u.endsSilent f) (u.noted y) :=
    conditionEvent_congr h.resumed rfl (by rw [h.notices])
  rw [State.hears, bus]
  exact ⟨h.active, h.resuming, h.counting, u.noted y, resumed, event, rfl⟩

/-- A request that is short or joins the queue is no condition event. -/
theorem Admitted.unlatched {f : Frame} {happens : Prop} {u y z : State} (h : Admitted f u y) (hh : ¬ happens)
    (queued : z.tx.queued = y.tx.queued) (notices : z.notices = y.notices) :
    (u.noted y).conditionEvent [] .reqLost happens z :=
  conditionEvent_none hh ((placedInOrder_nil _ _).mpr queued) (by rw [notices, h.notices])

/-- A request dropped at a full queue is a condition event of REQ_LOST (08, R126; 10, R174). -/
theorem Admitted.latched {f : Frame} {happens : Prop} {u y : State} (h : Admitted f u y)
    (stamps : ∀ e ∈ u.tx.queued, e.stamp < u.tx.epoch * 64) (hh : happens) :
    (u.noted y).conditionEvent [] .reqLost happens ((y.count 108).latch .reqLost) := by
  have flight : y.hasInFlight Owner.isNotice = (u.noted y).hasInFlight Owner.isNotice := by
    simp only [State.hasInFlight, inFlight_congr h.flight, State.noted]
    rfl
  have epoch : y.tx.epoch = u.tx.epoch := by rw [h.frame]
  refine conditionEvent_latch (v := y.count 108) hh ((placedInOrder_nil _ _).mpr rfl) nofun flight
    (fun unqueued e he => ?_) (by rw [count_notices, h.notices])
  have kept := queued_of_conditionEvent h.resumed unqueued
  have waiting : e ∈ u.tx.queued := kept ▸ he
  rw [count_tx, epoch]
  exact Nat.lt_add_right 40 (stamps e waiting)

/-- All that a request frame can change (08, R126). -/
def State.requested (u t : State) : Prop :=
  t = { u with
    tx := { u.tx with queued := t.tx.queued }
    bus := t.bus
    engine := { u.engine with requests := t.engine.requests }
    notices := { u.notices with
      latched := t.notices.latched, deferred := t.notices.deferred, repeatCount := t.notices.repeatCount }
    counters := t.counters
    btx := if u.bus.port = .active then u.btx ++ [.acknowledge] else u.btx }

theorem queueRequest_eq (broadcast : Bool) (f : Frame) (s : State) : s.queueRequest broadcast f = { s with
    tx := { s.tx with queued := (s.queueRequest broadcast f).tx.queued }
    engine := { s.engine with requests := (s.queueRequest broadcast f).engine.requests }
    notices := { s.notices with
      latched := (s.queueRequest broadcast f).notices.latched
      deferred := (s.queueRequest broadcast f).notices.deferred
      repeatCount := (s.queueRequest broadcast f).notices.repeatCount }
    counters := (s.queueRequest broadcast f).counters } := by
  unfold State.queueRequest
  split
  · rfl
  · split
    · rw [latch_eq]
      rfl
    · rfl

theorem Admitted.requested {f : Frame} {u y : State} (h : Admitted f u y) (broadcast : Bool) :
    u.requested (y.queueRequest broadcast f) := by
  have bus : (y.queueRequest broadcast f).bus = y.bus := by simp
  have frame := queueRequest_eq broadcast f y
  rw [State.requested, bus]
  generalize y.queueRequest broadcast f = z at frame ⊢
  rw [frame, h.frame]

theorem count_counters_congr {s t : State} (h : s.counters = t.counters) (k : Fin 111) :
    (s.count k).counters = (t.count k).counters := by
  simp only [State.count, h]

/-- Settles O9: the port hears the request, and then it is short, dropped or joins the queue. -/
theorem requestFrameIsQueued : Obligations.RequestFrameIsQueued := by
  intro time f s ht u short full received law request
  have stamps := found_stamps law
  obtain ⟨y, h, queue⟩ := classify_admitted stamps request
  have executed := exec_frameArrival_good ht received f
  rw [queue] at executed
  refine ⟨_, executed, ?_, h.requested _, fun few => ?_, fun ⟨long, filled⟩ => ?_, fun long room => ?_⟩
  · refine h.hears (by simp) ?_
    by_cases few : f.count < 2
    · rw [queueRequest_short few]
      exact h.unlatched (fun ⟨long, _⟩ => absurd few (Nat.not_lt.mpr long)) rfl rfl
    · have long : 2 ≤ f.count := Nat.not_lt.mp few
      by_cases filled : 4 ≤ y.engine.requests.length
      · rw [queueRequest_full long filled]
        exact h.latched stamps ⟨long, h.engine ▸ filled⟩
      · rw [queueRequest_joins long filled]
        exact h.unlatched (fun ⟨_, filled'⟩ => filled (h.engine ▸ filled')) rfl rfl
  · rw [queueRequest_short few, count_engine, h.engine]
    exact ⟨rfl, count_counters_congr h.counters 109⟩
  · rw [queueRequest_full long (h.engine ▸ filled), latch_eq, count_engine, h.engine]
    exact ⟨rfl, count_counters_congr h.counters 108⟩
  · have long' : 2 ≤ f.count := Nat.not_lt.mp long
    rw [queueRequest_joins long' fun filled => room ⟨long', h.engine ▸ filled⟩, h.engine]
    exact ⟨h.counters, rfl⟩

end Sys2Proof.Machine
end

section
/-! Every command answers a next state (08, R132), and one that the state rules out leaves all as it was (log 1). -/

namespace Sys2Proof.Machine

/-! ### The serial (08, R132) -/

theorem performDue_serial (d : DueStep) (n : Byte) (s : State) : (s.performDue d n).engine.serial = s.engine.serial := by
  cases d with
  | swap =>
    show (s.swapPending n).engine.serial = s.engine.serial
    unfold State.swapPending
    split
    · rw [swapCommit_engine]
    · rfl
  | sessionExpiry => simp [State.performDue, State.expireSession, State.closeSession]
  | snapshotExpiry => simp [State.performDue]
  | repeatExpiry => simp [State.performDue]

theorem edit_serial {body : Request → State → Answer} {r : Request} (need : Nat) (s : State)
    (hb : ∀ x : State, (body r x).state.engine.serial = x.engine.serial) :
    (State.edit need body r s).state.engine.serial = s.engine.serial := by
  have edited := hb s.clearIdle
  unfold State.edit
  dsimp only
  split
  · split
    · rfl
    · split
      · rfl
      · exact edited
  · rfl

/-- No action of a request touches the serial (08, R132). -/
theorem act_serial (row : TakeRow) (r : Request) (s : State) : (row.act r s).engine.serial = s.engine.serial := by
  have answered (h : Request → State → Answer) (ha : ∀ x, (h r x).state.engine.serial = x.engine.serial) :
      (State.answered h r s).engine.serial = s.engine.serial :=
    answered_keeps (f := fun s => s.engine.serial) (fun _ _ _ => rfl) (fun _ _ _ => rfl) ha s
  cases row with
  | probe | resumeBus | readNotices | readAttention | unknownRequest => exact answered _ fun _ => rfl
  | readConfig | readMailboxPart0 | capture | readMailboxPart2 | readCounters | openEdit | cancel | ackNotices =>
    refine answered _ fun x => ?_
    simp only [answerReadConfig, answerReadMailboxPart0, answerCapture, answerReadMailboxPart2, answerReadCounters,
      answerOpenEdit, answerCancel, answerAckNotices, State.okay, State.refuse]
    (repeat' split) <;> rfl
  | setNoticeEnable =>
    refine answered _ fun x => ?_
    simp only [answerSetNoticeEnable, State.okay, State.refuse]
    (repeat' split) <;> simp
  | closeEdit => exact answered _ fun x => edit_serial 2 x fun _ => rfl
  | setMatch => exact answered _ fun x => edit_serial 8 x fun y => by rw [bodySetMatch_engine]
  | setTiming => exact answered _ fun x => edit_serial 7 x fun y => by rw [bodySetTiming_engine]
  | setSlot => exact answered _ fun x => edit_serial 5 x fun y => by rw [bodySetSlot_engine]
  | setProfile => exact answered _ fun x => edit_serial 5 x fun y => by rw [bodySetProfile_engine]
  | commit =>
    simp only [TakeRow.act, actCommit]
    (repeat' split) <;> rfl
  | discover =>
    simp only [TakeRow.act, actDiscover]
    (repeat' split) <;> rfl
  | assign =>
    unfold TakeRow.act actAssign State.placeFreeReply
    dsimp only
    (repeat' split) <;> simp
  | restart =>
    simp only [TakeRow.act, actRestart]
    (repeat' split) <;> rfl
  | broadcastDiscard => rfl
  | snapshot =>
    simp only [TakeRow.act, actSnapshot]
    split
    · simp
    · exact answered _ fun x => by simp [answerSnapshot, State.okay]

theorem serial_kept (serial : Vector (BitVec 8) 6) : Kept (fun s => s.engine.serial = serial) := KeptByEngine.kept {
  still := fun hs h => by rw [h.engine]; exact hs
  work := fun w s hs => by rw [work_engine]; exact hs
  wait := fun w _ s hs _ => by rw [work_engine]; exact hs
  within := fun w d n s hs _ => by rw [performDue_serial, work_engine]; exact hs
  due := fun b s hs _ => by rw [performDue_serial]; exact hs
  restart := fun s hs => by simpa [State.performRestart] using hs
  release := fun _ _ hs => hs
  take := fun r rest s hs _ _ => by rw [act_serial, dequeue_engine]; exact hs
  frameEnds := fun r s hs => by rw [frameEnds_engine]; exact hs }

/-! ### The queue of commands -/

/-- What finishing, a selection and a take leave alone is so left before an event (log 3). -/
theorem ripe_keeps {β : Type} {f : State → β} (finish : ∀ s, f s.finish = f s) (select : ∀ s, f s.newEvent.select = f s)
    (take : ∀ row r rest s, f (TakeRow.act row r (s.dequeue rest)) = f s) (t : Nat) (s : State) : f (s.ripe t) = f s := by
  have settleBy (n : Nat) : ∀ s : State, f (s.settleBy n) = f s := by
    induction n with
    | zero => exact finish
    | succ n ih =>
      intro s
      unfold State.settleBy
      dsimp only
      split
      · rw [ih, select, finish]
      · split
        · rw [ih]
          unfold State.takeHead
          split
          · exact finish s
          · rw [take, finish]
        · exact finish s
  unfold State.ripe
  split
  · exact finish s
  · exact settleBy _ s

theorem act_pending (row : TakeRow) (r : Request) (s : State) : (row.act r s).pending = s.pending := by
  obtain ⟨-, -, -, -, -, -, -, -, -, pending⟩ := act_plain row r s
  exact pending

theorem act_held (row : TakeRow) (r : Request) (s : State) : (row.act r s).held = s.held := by
  obtain ⟨-, held, -⟩ := act_plain row r s
  exact held

theorem ripe_pending (t : Nat) (s : State) : (s.ripe t).pending = s.pending :=
  ripe_keeps (f := State.pending) (by simp) (by simp) (fun row r rest s => act_pending row r _) t s

theorem ripe_held (t : Nat) (s : State) : (s.ripe t).held = s.held :=
  ripe_keeps (f := State.held) (by simp) (by simp) (fun row r rest s => act_held row r _) t s

theorem atTime_pending {t : Nat} {occurs : State → Bool} {effect : State → State}
    (h : ∀ x, (effect x).pending = x.pending) (s : State) : (s.atTime t occurs effect).pending = s.pending := by
  unfold State.atTime
  dsimp only
  split
  · simp [h, ripe_pending]
  · rfl

theorem take_pending (row : TakeRow) (s : State) : (s.take row row.act).pending = s.pending := by
  unfold State.take
  dsimp only
  split
  · rfl
  · split
    · rw [act_pending]
      exact (by simp : s.finish.pending = s.pending)
    · rfl

theorem namedDue_pending (d : DueStep) (s : State) : (s.namedDue d).pending = s.pending := by
  unfold State.namedDue
  split
  · rfl
  · split <;> simp

theorem expire_pending (role : RingRole) {effect : State → State} (h : ∀ x, (effect x).pending = x.pending) (s : State) :
    (s.expire role effect).pending = s.pending := by
  unfold State.expire
  split
  · rfl
  · exact atTime_pending h s

theorem exec_command (row : TakeRow) (s : State) : exec row.command s = .next (s.take row row.act) := by
  cases row <;> rfl

/-- Every command answers a next state with the queue of commands as it was. -/
theorem exec_next (c : Instr) (s : State) : ∃ t, exec c s = .next t ∧ t.pending = s.pending := by
  cases c with
  | powerOn time straps busBusy =>
    refine ⟨_, rfl, ?_⟩
    split <;> simp
  | windowClose =>
    refine ⟨_, rfl, ?_⟩
    split
    · rfl
    · exact atTime_pending (by simp) s
  | selection =>
    refine ⟨_, rfl, ?_⟩
    split <;> simp
  | restartPerformed =>
    refine ⟨_, rfl, ?_⟩
    split <;> simp
  | nresetAssert _ | nresetRelease _ _ | frameStart _ | frameArrival _ _ | arbitrationLost _ _ | transmitError _
  | completion _ | finishingFrameOutcome _ _ | roundMarkArrival _ _ _ | incomingSlotStart _ | slotArrival _ _ =>
    exact ⟨_, rfl, atTime_pending (by simp) s⟩
  | roundTimerExpiry _ | localRoundTimerExpiry _ => exact ⟨_, rfl, expire_pending _ (by simp) s⟩
  | swap | sessionExpiry | snapshotIntervalExpiry | noticeRepeatExpiry => exact ⟨_, rfl, namedDue_pending _ s⟩
  | probe | discover | assign | readConfig | readMailboxPart0 | capture | readMailboxPart2 | readCounters | resumeBus
  | restart | openEdit | closeEdit | setMatch | setTiming | setSlot | setProfile | commit | cancel | snapshot
  | readNotices | ackNotices | setNoticeEnable | readAttention | unknownRequest | broadcastDiscard =>
    exact ⟨_, rfl, take_pending _ s⟩

/-! ### Commands the state rules out (log 1) -/

/-- Out of order, or ruled out by the part it finds, an event does not occur. -/
theorem atTime_ruled_out {t : Nat} {occurs : State → Bool} {effect : State → State} {s : State}
    (h : ¬ s.inTime t ∨ occurs (s.ripe t) = false) : s.atTime t occurs effect = s := by
  refine if_neg fun both => ?_
  rw [Bool.and_eq_true] at both
  obtain ⟨ordered, possible⟩ := both
  rcases h with disorder | ruled
  · exact disorder ordered
  · exact Bool.false_ne_true (ruled.symm.trans possible)

theorem exec_disorder {c : Instr} {time : Nat} {s : State} (timed : eventTime c = some time)
    (disorder : ¬ s.inTime (16 * time)) : exec c s = .next s := by
  cases c with
  | nresetAssert _ | nresetRelease _ _ | frameStart _ | frameArrival _ _ | arbitrationLost _ _ | transmitError _
  | completion _ | finishingFrameOutcome _ _ | roundMarkArrival _ _ _ | incomingSlotStart _ | slotArrival _ _ =>
    obtain rfl := Option.some.inj timed
    exact congrArg _ (atTime_ruled_out (.inl disorder))
  | _ => cases timed

theorem lineFree_false {s : State} (h : s.bus.line ≠ .idle ∨ s.bus.unheard = true) : s.lineFree = false := by
  rcases h with line | unheard
  · simp [State.lineFree, line]
  · simp [State.lineFree, unheard]

/-- No attempt is under way (07, R116). -/
theorem attempting_false {s : State} (h : ∀ e f, s.bus.flight ≠ some (.attempt e f)) : s.attempting = false := by
  unfold State.attempting State.inFlight
  cases flight : s.bus.flight with
  | none => rfl
  | some x =>
    cases x with
    | attempt e f => exact absurd flight (h e f)
    | finishing f => rfl

theorem finishing_false {s : State} (h : ∀ f, s.bus.flight ≠ some (.finishing f)) : s.finishing = false := by
  unfold State.finishing
  cases flight : s.bus.flight with
  | none => rfl
  | some x =>
    cases x with
    | attempt e f => rfl
    | finishing f => exact absurd flight (h f)

/-- No attempt is under way that the winner outranks (07, R117). -/
theorem loss_false {s : State} {winner : BusId} (h : ∀ e f, s.bus.flight = some (.attempt e f) → ¬ winner < f.id) :
    (s.attempting && s.outranked winner) = false := by
  by_cases attempt : ∃ e f, s.bus.flight = some (.attempt e f)
  · obtain ⟨e, f, flight⟩ := attempt
    have unmatched := h e f flight
    simp [State.outranked, flight, unmatched]
  · rw [attempting_false fun e f flight => attempt ⟨e, f, flight⟩]
    rfl

/-- A deadline the part does not keep does not come. -/
theorem deadline_none {find : State → Option Nat} {s : State} (finished : find s.finish = none)
    (settled : find s.settle = none) : s.deadline find = none := by
  simp [State.deadline, finished, settled]

/-- Before an event the part is as it stands finished or settled. -/
theorem ripe_cases (t : Nat) (s : State) : s.ripe t = s.finish ∨ s.ripe t = s.settle := by
  unfold State.ripe
  split
  · exact .inl rfl
  · exact .inr rfl

theorem exec_windowClose_ruled_out {s : State}
    (h : s.held = true ∨ (s.finish.windowEnd = none ∧ s.settle.windowEnd = none)) : exec .windowClose s = .next s := by
  refine congrArg Host.Outcome.next ?_
  split
  · rfl
  · rename_i w found
    rcases h with held | ⟨finished, settled⟩
    · exact atTime_ruled_out (.inr (by simp [ripe_held, held]))
    · rw [deadline_none finished settled] at found
      cases found

/-- No expiry comes under reset, of a timer that does not run, or of the other role's timer (04, R57, R58, R69, R76). -/
theorem expire_ruled_out {role other : RingRole} (differs : other ≠ role) (effect : State → State) {s : State}
    (h : s.held = true ∨ (s.finish.ring.timer = none ∧ s.settle.ring.timer = none) ∨
      (s.finish.role = other ∧ s.settle.role = other)) : s.expire role effect = s := by
  unfold State.expire
  split
  · rfl
  · rename_i t found
    rcases h with held | ⟨finished, settled⟩ | ⟨finished, settled⟩
    · exact atTime_ruled_out (.inr (by simp [ripe_held, held]))
    · rw [deadline_none (by simp [State.nextExpiry, finished]) (by simp [State.nextExpiry, settled])] at found
      cases found
    · have ripe : (s.ripe t).role = other := by
        rcases ripe_cases t s with e | e <;> rw [e] <;> assumption
      exact atTime_ruled_out (.inr (by simp [ripe, differs]))

theorem namedDue_ruled_out {d : DueStep} {s : State} (h : ∀ b, s.boundary = some b → b.due ≠ d) : s.namedDue d = s := by
  unfold State.namedDue
  split
  · rfl
  · rename_i b waiting
    exact if_neg (h b waiting)

theorem exec_due_command (d : DueStep) (s : State) : exec d.command s = .next (s.namedDue d) := by
  cases d <;> rfl

theorem take_ruled_out {row : TakeRow} {s : State} (h : ∀ r rest, ¬ s.finish.takes row r rest)
    (act : Request → State → State) : s.take row act = s := by
  unfold State.take
  dsimp only
  split
  · rfl
  · rename_i r rest queue
    refine if_neg fun taken => ?_
    rw [Bool.and_eq_true, decide_eq_true_eq] at taken
    exact h r rest ⟨queue, taken.2, taken.1⟩

/-- A command that the state rules out leaves the whole state as it was (log 1). -/
theorem exec_ruled_out {c : Instr} {s : State} (h : s.RulesOut c) : exec c s = .next s := by
  cases h with
  | disorder timed disorder => exact exec_disorder timed disorder
  | power early => exact congrArg _ (if_neg (Nat.not_le.mpr early))
  | asserted held => exact congrArg _ (atTime_ruled_out (.inr (by simp [ticks, held])))
  | released running => exact congrArg _ (atTime_ruled_out (.inr running))
  | lineBusy busy => exact congrArg _ (atTime_ruled_out (.inr (lineFree_false busy)))
  | noFrame line heard => exact congrArg _ (atTime_ruled_out (.inr (by simp [State.frameOnBus, ticks, line, heard])))
  | noSelection idle => exact congrArg _ (if_neg (by simp [idle]))
  | noLoss loss => exact congrArg _ (atTime_ruled_out (.inr (loss_false loss)))
  | noError grounded => exact congrArg _ (atTime_ruled_out (.inr (attempting_false grounded)))
  | noCompletion grounded => exact congrArg _ (atTime_ruled_out (.inr (attempting_false grounded)))
  | noFinishing grounded => exact congrArg _ (atTime_ruled_out (.inr (finishing_false grounded)))
  | markTooLate closed => exact congrArg _ (atTime_ruled_out (.inr (by simp [State.markMayArrive, ticks, closed])))
  | noWindow window => exact exec_windowClose_ruled_out window
  | slotUnderWay round started =>
    exact congrArg _ (atTime_ruled_out (.inr (by simp [State.slotMayBegin, ticks, round, started])))
  | noSlot round waiting =>
    exact congrArg _ (atTime_ruled_out (.inr (by simp [State.slotMayEnd, ticks, round, waiting])))
  | noMasterTimer timer => exact congrArg _ (expire_ruled_out (role := .master) (other := .follower) (by decide) _ timer)
  | noLocalTimer timer => exact congrArg _ (expire_ruled_out (role := .follower) (other := .master) (by decide) _ timer)
  | notDue due => rw [exec_due_command, namedDue_ruled_out due]
  | noRestart none_due =>
    refine congrArg _ (if_neg fun ⟨closed, due⟩ => ?_)
    rcases none_due with waiting | undue
    · exact waiting (by simpa using closed)
    · simp [undue] at due
  | notTaken untaken => rw [exec_command, take_ruled_out untaken]

/-- Settles O2: every arm of exec answers a next state, every operation keeps the serial, and each kind of command that is
ruled out leaves all as it was. -/
theorem everyCommandAnswersNext : Obligations.EveryCommandAnswersNext := by
  refine ⟨fun c s => ?_, fun c s ruled => exec_ruled_out ruled⟩
  obtain ⟨t, executed, pending⟩ := exec_next c s
  exact ⟨t, executed, pending, (serial_kept s.engine.serial).exec rfl executed⟩

end Sys2Proof.Machine
end

section
/-! Edit sessions (09, R155 to R158, R160 to R163). An edit-class request passes the tests of session, freeze and argument
count, and then its own action answers it: with a refusal, or with a staging image it has written. -/

namespace Sys2Proof.Machine

/-! ### The tests of an edit-class request (09, R156) -/

section EditTests

variable {need : Nat} {body : Request → State → Answer} {r : Request} {x : State}

theorem edit_foreign (foreign : x.engine.owner ≠ some r.tag) : State.edit need body r x = x.refuse .noSession :=
  if_neg (by simpa [State.fromOwner] using foreign)

theorem edit_owned (owner : x.engine.owner = some r.tag) : State.edit need body r x =
    if x.engine.commit.isSome then x.clearIdle.refuse .busy
    else if r.data.length < need then x.clearIdle.refuse .badValue
    else body r x.clearIdle :=
  if_pos (by simpa [State.fromOwner] using owner)

theorem edit_frozen (owner : x.engine.owner = some r.tag) (frozen : x.engine.commit ≠ none) :
    State.edit need body r x = x.clearIdle.refuse .busy := by
  rw [edit_owned owner, if_pos (Option.isSome_iff_ne_none.mpr frozen)]

theorem edit_short (owns : State.owns r x) (short : r.data.length < need) :
    State.edit need body r x = x.clearIdle.refuse .badValue := by
  obtain ⟨owner, unfrozen⟩ := owns
  rw [edit_owned owner, unfrozen, if_neg (by simp), if_pos short]

theorem edit_acts (owns : State.owns r x) (long : need ≤ r.data.length) :
    State.edit need body r x = body r x.clearIdle := by
  obtain ⟨owner, unfrozen⟩ := owns
  rw [edit_owned owner, unfrozen, if_neg (by simp), if_neg (Nat.not_lt.mpr long)]

end EditTests

/-! ### The answer of an edit-class request -/

/-- The part as the action of the owner's request finds it: the request taken, a reply entry reserved, the idle count 0
(09, R156). -/
def State.attended (rest : List Request) (k : Fin 4) (u : State) : State := (u.reserving rest k).clearIdle

/-- An answer without reply data that leaves a staging image, and nothing else changed. -/
def State.restaged (result : ResultCode) (i : Image) (x : State) : Answer :=
  { result := result, data := [], state := { x with staging := i } }

theorem refuse_eq_restaged (result : ResultCode) (x : State) : x.refuse result = x.restaged result x.staging := rfl

/-- The owner's request answered: all of the part but its queue (09, R156). -/
theorem attended_placeReply (rest : List Request) (k : Fin 4) (c : Reply) (u : State) :
    (u.attended rest k).placeReply k c = { u with
      tx := ((u.attended rest k).placeReply k c).tx
      engine := { u.engine with requests := rest, idle := 0 }
      counters := (u.count 107).counters } := by
  rw [placeReply_eq, State.attended, reserving_eq]
  rfl

/-- The owner's request answered with a staging image it leaves. -/
theorem edited_of_restaged {r : Request} {rest : List Request} {u : State} {k : Fin 4} {a : Answer} {result : ResultCode}
    {i : Image} (law : u.queueLaw) (free : u.freeReply = some k) (answer : a = (u.attended rest k).restaged result i) :
    State.edited r rest result i u (a.state.placeReply k (r.echo a.result a.data)) := by
  subst answer
  refine ⟨replied_of_answer (a := (u.attended rest k).restaged result i) law free rfl, ?_⟩
  rw [placeReply_eq]
  rfl

/-- An edit-class request from the owner of an unfrozen session: too few bytes are refused, else its action answers. -/
theorem exec_edit {row : TakeRow} {need : Nat} {body : Request → State → Answer} {r : Request} {rest : List Request}
    {s : State} (act : row.act = State.answered (State.edit need body)) (taken : s.finish.takes row r rest)
    (law : s.finish.queueLaw) (owns : State.owns r s.finish) (free : ∃ k, s.finish.freeReply = some k) :
    ∃ k t, exec row.command s = .next t ∧
      (r.data.length < need → State.edited r rest .badValue s.finish.staging s.finish t) ∧
      (need ≤ r.data.length → ∀ result i,
        body r (s.finish.attended rest k) = (s.finish.attended rest k).restaged result i →
        State.edited r rest result i s.finish t) := by
  obtain ⟨k, free⟩ := free
  refine ⟨k, _, exec_answered act taken free, fun short => ?_, fun long result i acts => ?_⟩
  · exact edited_of_restaged law free (edit_short (x := s.finish.reserving rest k) owns short)
  · exact edited_of_restaged law free ((edit_acts (x := s.finish.reserving rest k) owns long).trans acts)

/-! ### OPEN_EDIT and CLOSE_EDIT (09, R157, R158) -/

/-- The session open to a tag, its idle count 0 (09, R157). -/
def State.openedBy (tag : Byte) (x : State) : State :=
  { x with engine := { x.engine with owner := some tag, idle := 0 } }

theorem answerOpenEdit_zero {r : Request} (zero : r.tag = 0) (x : State) : answerOpenEdit r x = x.refuse .badValue :=
  if_pos zero

theorem answerOpenEdit_opens {r : Request} {x : State} (tag : r.tag ≠ 0)
    (opens : x.engine.owner = none ∨ x.engine.owner = some r.tag) :
    answerOpenEdit r x = (x.openedBy r.tag).okay [] := by
  rw [answerOpenEdit, if_neg tag]
  rcases opens with unopened | owner
  · rw [unopened]
    rfl
  · simp only [owner, if_true, State.clearIdle, State.openedBy]

theorem answerOpenEdit_owned {r : Request} {x : State} {o : Byte} (tag : r.tag ≠ 0) (owner : x.engine.owner = some o)
    (other : o ≠ r.tag) : answerOpenEdit r x = { result := .owned, data := [o], state := x } := by
  rw [answerOpenEdit, if_neg tag, owner]
  exact if_neg other

theorem openedBy_placeReply (rest : List Request) (k : Fin 4) (c : Reply) (tag : Byte) (u : State) :
    ((u.reserving rest k).openedBy tag).placeReply k c = { u with
      tx := (((u.reserving rest k).openedBy tag).placeReply k c).tx
      engine := { u.engine with requests := rest, owner := some tag, idle := 0 }
      counters := (u.count 107).counters } := by
  rw [placeReply_eq, reserving_eq]
  rfl

theorem closed_placeReply (r : Request) (rest : List Request) (k : Fin 4) (c : Reply) (u : State) :
    (bodyCloseEdit r (u.attended rest k)).state.placeReply k c = { u with
      staging := u.active
      tx := ((bodyCloseEdit r (u.attended rest k)).state.placeReply k c).tx
      engine := { u.engine with requests := rest, owner := none, idle := 0 }
      counters := (u.count 107).counters } := by
  rw [placeReply_eq, State.attended, reserving_eq]
  rfl

/-- Settles O42: OPEN_EDIT by its tag and the session's owner, and the action of CLOSE_EDIT. -/
theorem openAndCloseEdit : Obligations.OpenAndCloseEdit := by
  constructor
  · intro r rest s u taken law
    obtain ⟨k, free⟩ := free_of_takes taken nofun nofun nofun nofun
    refine ⟨_, exec_answered (row := .openEdit) rfl taken free, fun zero => ?_, fun tag opens => ?_,
      fun o tag owner other => ?_⟩
    · rw [answerOpenEdit_zero zero]
      exact ⟨replied_of_answer (a := (u.reserving rest k).refuse .badValue) law free rfl,
        onlyAnswers_placeReply rest k _ u⟩
    · rw [answerOpenEdit_opens (x := u.reserving rest k) tag opens]
      exact ⟨replied_of_answer (a := ((u.reserving rest k).openedBy r.tag).okay []) law free rfl,
        openedBy_placeReply rest k _ r.tag u⟩
    · rw [answerOpenEdit_owned (x := u.reserving rest k) tag owner other]
      exact ⟨replied_of_answer (a := { result := .owned, data := [o], state := u.reserving rest k }) law free rfl,
        onlyAnswers_placeReply rest k _ u⟩
  · intro r rest s u taken law owns long
    obtain ⟨k, free⟩ := free_of_takes taken nofun nofun nofun nofun
    refine ⟨_, exec_answered (row := .closeEdit) rfl taken free, ?_⟩
    rw [edit_acts (x := u.reserving rest k) owns long]
    exact ⟨replied_of_answer (a := bodyCloseEdit r (u.attended rest k)) law free rfl, closed_placeReply r rest k _ u⟩

/-! ### SET_MATCH (09, R160) -/

/-- The operands of a SET_MATCH that lie in range (09, R160). -/
def Request.matchInRange (r : Request) : Prop :=
  (r.byte 3).toNat ≤ 15 ∧ (r.byte 3).toNat % 4 ≠ 3 ∧ numberOf (r.byte 4) (r.byte 5) ≤ 0xFFF ∧
    numberOf (r.byte 6) (r.byte 7) ≤ 0xFFF

theorem kind_ofCode {n : Nat} (known : n % 4 ≠ 3) :
    Kind.ofCode (n % 4) = some (if n % 4 = 0 then .unused else if n % 4 = 1 then .feed else .report) := by
  have low : n % 4 = 0 ∨ n % 4 = 1 ∨ n % 4 = 2 := by omega
  rcases low with h | h | h <;> rw [h] <;> rfl

theorem bodySetMatch_high {r : Request} (high : 31 < (r.byte 2).toNat) (x : State) :
    bodySetMatch r x = x.refuse .badIndex := by
  rw [bodySetMatch, mailboxOf_high high]

theorem bodySetMatch_named {r : Request} {m : Fin 32} (named : (r.byte 2).toNat = m.val)
    (known : (r.byte 3).toNat % 4 ≠ 3) (x : State) : bodySetMatch r x =
      if 15 < (r.byte 3).toNat ∨ 0xFFF < numberOf (r.byte 4) (r.byte 5) ∨ 0xFFF < numberOf (r.byte 6) (r.byte 7) then
        x.refuse .badValue
      else x.restaged .ok { x.staging with boxes := x.staging.boxes.set m { x.staging.boxes[m] with
        kind := if (r.byte 3).toNat % 4 = 0 then .unused else if (r.byte 3).toNat % 4 = 1 then .feed else .report
        chain := decide ((r.byte 3).toNat / 4 % 2 = 1)
        attention := decide ((r.byte 3).toNat / 8 % 2 = 1)
        identifier := BitVec.ofNat 12 (numberOf (r.byte 4) (r.byte 5))
        mask := BitVec.ofNat 12 (numberOf (r.byte 6) (r.byte 7)) } } := by
  rw [bodySetMatch, mailboxOf_of_eq named]
  dsimp only
  rw [kind_ofCode known]
  rfl

theorem bodySetMatch_unknown {r : Request} (low : (r.byte 2).toNat ≤ 31) (unknown : (r.byte 3).toNat % 4 = 3) (x : State) :
    bodySetMatch r x = x.refuse .badValue := by
  rw [bodySetMatch, mailboxOf_of_eq (m := ⟨(r.byte 2).toNat, Nat.lt_succ_of_le low⟩) rfl]
  dsimp only
  rw [unknown]
  rfl

theorem bodySetMatch_out {r : Request} (low : (r.byte 2).toNat ≤ 31) (out : ¬ r.matchInRange) (x : State) :
    bodySetMatch r x = x.refuse .badValue := by
  by_cases unknown : (r.byte 3).toNat % 4 = 3
  · exact bodySetMatch_unknown low unknown x
  · rw [bodySetMatch_named (m := ⟨(r.byte 2).toNat, Nat.lt_succ_of_le low⟩) rfl unknown, if_pos]
    unfold Request.matchInRange at out
    omega

/-- Settles O44: the tests of SET_MATCH in their order, then the five fields. -/
theorem setMatchWritesFiveFields : Obligations.SetMatchWritesFiveFields := by
  intro r rest s u flags id mask good taken law owns
  obtain ⟨k, t, executed, short, acts⟩ := exec_edit (row := .setMatch) (body := bodySetMatch) rfl taken law owns
    (free_of_takes taken nofun nofun nofun nofun)
  refine ⟨t, executed, short, fun long high => acts long _ _ (bodySetMatch_high high _),
    fun long low out => acts long _ _ (bodySetMatch_out low out _), fun m long named inside => acts long _ _ ?_⟩
  obtain ⟨few, known, narrow, narrowMask⟩ := inside
  rw [bodySetMatch_named named known, if_neg]
  · rfl
  · unfold numberOf
    omega

/-! ### SET_TIMING (09, R161) -/

theorem byte_low {b : Byte} (low : b.toNat ≤ 2) : b = 0 ∨ b = 1 ∨ b = 2 := by
  have cases : b.toNat = 0 ∨ b.toNat = 1 ∨ b.toNat = 2 := by omega
  exact cases.imp BitVec.eq_of_toNat_eq (Or.imp BitVec.eq_of_toNat_eq BitVec.eq_of_toNat_eq)

theorem degraded_ofCode {b : Byte} (low : b.toNat ≤ 2) : Degraded.ofCode b.toNat =
    some (if b = 0 then .forward else if b = 1 then .empty else .suppress) := by
  rcases byte_low low with rfl | rfl | rfl <;> rfl

theorem degraded_ofCode_high {b : Byte} (high : 2 < b.toNat) : Degraded.ofCode b.toNat = none := by
  obtain ⟨n, above⟩ := Nat.exists_eq_add_of_le' (Nat.succ_le_of_lt high)
  rw [above]
  rfl

theorem bodySetTiming_high {r : Request} (high : 31 < (r.byte 2).toNat) (x : State) :
    bodySetTiming r x = x.refuse .badIndex := by
  rw [bodySetTiming, mailboxOf_high high]

theorem bodySetTiming_out {r : Request} (low : (r.byte 2).toNat ≤ 31)
    (out : ¬ ((r.byte 3).toNat ≤ 8 ∧ (r.byte 4).toNat ≤ 2)) (x : State) : bodySetTiming r x = x.refuse .badValue := by
  rw [bodySetTiming, mailboxOf_of_eq (m := ⟨(r.byte 2).toNat, Nat.lt_succ_of_le low⟩) rfl]
  dsimp only
  split
  · rfl
  · rw [degraded_ofCode_high (by omega)]

theorem bodySetTiming_named {r : Request} {m : Fin 32} (named : (r.byte 2).toNat = m.val) (length : (r.byte 3).toNat ≤ 8)
    (action : (r.byte 4).toNat ≤ 2) (x : State) : bodySetTiming r x =
      x.restaged .ok { x.staging with boxes := x.staging.boxes.set m { x.staging.boxes[m] with
        length := (r.byte 3).toNat
        degraded := if r.byte 4 = 0 then .forward else if r.byte 4 = 1 then .empty else .suppress
        changeMask := r.byte 5
        limit := r.byte 6 } } := by
  rw [bodySetTiming, mailboxOf_of_eq named]
  dsimp only
  rw [if_neg (Nat.not_lt.mpr length), degraded_ofCode action]
  rfl

/-- Settles O45: the tests of SET_TIMING in their order, then the four fields. -/
theorem setTimingWritesFourFields : Obligations.SetTimingWritesFourFields := by
  intro r rest s u good taken law owns
  obtain ⟨k, t, executed, short, acts⟩ := exec_edit (row := .setTiming) (body := bodySetTiming) rfl taken law owns
    (free_of_takes taken nofun nofun nofun nofun)
  exact ⟨t, executed, short, fun long high => acts long _ _ (bodySetTiming_high high _),
    fun long low out => acts long _ _ (bodySetTiming_out low out _),
    fun m long named ⟨length, action⟩ => acts long _ _ (bodySetTiming_named named length action _)⟩

/-! ### SET_SLOT (09, R162) -/

theorem slotRole_ofCode {b : Byte} (low : b.toNat ≤ 2) : SlotRole.ofCode b.toNat =
    some (if b = 0 then .pass else if b = 1 then .listen else .drive) := by
  rcases byte_low low with rfl | rfl | rfl <;> rfl

theorem slotRole_ofCode_high {b : Byte} (high : 2 < b.toNat) : SlotRole.ofCode b.toNat = none := by
  obtain ⟨n, above⟩ := Nat.exists_eq_add_of_le' (Nat.succ_le_of_lt high)
  rw [above]
  rfl

theorem bodySetSlot_beyond {r : Request} (beyond : 63 < (r.byte 2).toNat) (x : State) :
    bodySetSlot r x = x.refuse .badIndex :=
  dif_neg (by omega)

theorem bodySetSlot_role {r : Request} (slot : (r.byte 2).toNat ≤ 63) (unknown : 2 < (r.byte 3).toNat) (x : State) :
    bodySetSlot r x = x.refuse .badValue := by
  rw [bodySetSlot, dif_pos (Nat.lt_succ_of_le slot), slotRole_ofCode_high unknown]

theorem bodySetSlot_high {r : Request} (slot : (r.byte 2).toNat ≤ 63) (role : (r.byte 3).toNat ≤ 2)
    (high : 31 < (r.byte 4).toNat) (x : State) : bodySetSlot r x = x.refuse .badIndex := by
  rw [bodySetSlot, dif_pos (Nat.lt_succ_of_le slot), slotRole_ofCode role, mailboxOf_high high]

theorem bodySetSlot_named {r : Request} {n : Fin 64} {m : Fin 32} (slot : (r.byte 2).toNat = n.val)
    (role : (r.byte 3).toNat ≤ 2) (named : (r.byte 4).toNat = m.val) (x : State) : bodySetSlot r x =
      x.restaged .ok { x.staging with slots := x.staging.slots.set n {
        role := if r.byte 3 = 0 then .pass else if r.byte 3 = 1 then .listen else .drive
        mailbox := m } } := by
  rw [bodySetSlot, dif_pos (slot ▸ n.isLt), slotRole_ofCode role, mailboxOf_of_eq named]
  simp only [slot]
  rfl

/-- Settles O46: the tests of SET_SLOT in their order, then the entry. -/
theorem setSlotWritesAnEntry : Obligations.SetSlotWritesAnEntry := by
  intro r rest s u taken law owns
  obtain ⟨k, t, executed, short, acts⟩ := exec_edit (row := .setSlot) (body := bodySetSlot) rfl taken law owns
    (free_of_takes taken nofun nofun nofun nofun)
  exact ⟨t, executed, short, fun long beyond => acts long _ _ (bodySetSlot_beyond beyond _),
    fun long slot unknown => acts long _ _ (bodySetSlot_role slot unknown _),
    fun long slot role high => acts long _ _ (bodySetSlot_high slot role high _),
    fun n m long slot role named => acts long _ _ (bodySetSlot_named slot role named _)⟩

/-! ### SET_PROFILE (09, R163) -/

theorem ranged_eq (lo hi v : Nat) (p : Profile) : ranged lo hi v p = if lo ≤ v ∧ v ≤ hi then some p else none := rfl

theorem slotCount_ofNumber (v : Nat) : SlotCount.ofNumber v = if v = 8 ∨ v = 16 ∨ v = 32 ∨ v = 64 then
    some (if v = 8 then .c8 else if v = 16 then .c16 else if v = 32 then .c32 else .c64) else none := by
  unfold SlotCount.ofNumber
  split
  case h_5 => rw [if_neg (by tauto)]
  all_goals rfl

/-- Two bytes carry a number of 16 bits (08, 8.12). -/
theorem numberOf_le (hi lo : Byte) : numberOf hi lo ≤ 65535 := by
  have := hi.isLt
  have := lo.isLt
  unfold numberOf
  omega

/-- The parameters by selector, each with the range of its values (09, R163). -/
theorem profile_set {v : Nat} (word : v ≤ 65535) (p : Profile) :
    (p.set 1 v = if v ≤ 1 then some { p with role := if v = 0 then .follower else .master } else none) ∧
    (p.set 2 v = if v = 8 ∨ v = 16 ∨ v = 32 ∨ v = 64 then
      some { p with slotCount := if v = 8 then .c8 else if v = 16 then .c16 else if v = 32 then .c32 else .c64 }
      else none) ∧
    (p.set 3 v = if 56 ≤ v then some { p with roundPeriod := v } else none) ∧
    (p.set 4 v = if v ≤ 1 then some { p with policy := if v = 0 then .priority else .arrival } else none) ∧
    (p.set 5 v = if 1 ≤ v ∧ v ≤ 15 then some { p with retryLimit := v } else none) ∧
    (p.set 6 v = if True then some { p with snapshotInterval := v } else none) ∧
    (p.set 7 v = if v ≤ 255 then some { p with noticeRepeat := v } else none) ∧
    (p.set 8 v = if v ≤ 1 then some { p with selfFeed := decide (v = 1) } else none) ∧
    (p.set 9 v = if 16 ≤ v then some { p with idleLimit := v } else none) := by
  refine ⟨?_, ?_, ?_, ?_, ?_, ?_, ?_, ?_, ?_⟩
  case refine_2 =>
    simp only [Profile.set, slotCount_ofNumber]
    split <;> rfl
  all_goals simp [Profile.set, ranged_eq, word]

theorem bodySetProfile_beyond {r : Request} (beyond : r.byte 2 = 0 ∨ 9 < (r.byte 2).toNat) (x : State) :
    bodySetProfile r x = x.refuse .badIndex := by
  refine if_neg fun ⟨first, last⟩ => ?_
  rcases beyond with zero | high
  · simp [zero] at first
  · omega

theorem bodySetProfile_selects {r : Request} {n : Nat} (selector : (r.byte 2).toNat = n) (first : 1 ≤ n) (last : n ≤ 9)
    (x : State) : bodySetProfile r x = match x.staging.profile.set n (numberOf (r.byte 3) (r.byte 4)) with
      | none => x.refuse .badValue
      | some p => x.restaged .ok { x.staging with profile := p } := by
  subst selector
  exact if_pos ⟨first, last⟩

/-- A SET_PROFILE that names a parameter writes it if the value is in its range, and else is refused. -/
theorem setProfile_wrote {r : Request} {rest : List Request} {u x t : State} {n : Byte} {ok : Prop} [Decidable ok] {q : Profile}
    (acts : ∀ result i, bodySetProfile r x = x.restaged result i → State.edited r rest result i u t)
    (selector : r.byte 2 = n) (first : 1 ≤ n.toNat) (last : n.toNat ≤ 9)
    (writes : x.staging.profile.set n.toNat (numberOf (r.byte 3) (r.byte 4)) = if ok then some q else none) :
    (ok → State.edited r rest .ok { x.staging with profile := q } u t) ∧
      (¬ ok → State.edited r rest .badValue x.staging u t) := by
  have body := bodySetProfile_selects (r := r) (congrArg BitVec.toNat selector) first last x
  rw [writes] at body
  refine ⟨fun inside => acts _ _ ?_, fun outside => acts _ _ ?_⟩
  · rw [body, if_pos inside]
  · rw [body, if_neg outside]
    rfl

/-- Settles O47: the tests of SET_PROFILE in their order, then the parameter by its selector. -/
theorem setProfileWritesAParameter : Obligations.SetProfileWritesAParameter := by
  intro r rest s u v p wrote taken law owns
  obtain ⟨k, t, executed, short, acts⟩ := exec_edit (row := .setProfile) (body := bodySetProfile) rfl taken law owns
    (free_of_takes taken nofun nofun nofun nofun)
  obtain ⟨set1, set2, set3, set4, set5, set6, set7, set8, set9⟩ := profile_set (numberOf_le (r.byte 3) (r.byte 4)) p
  have writes {n : Byte} {ok : Prop} [Decidable ok] {q : Profile} (long : 5 ≤ r.data.length) (selector : r.byte 2 = n)
      (set : p.set n.toNat v = if ok then some q else none) (named : 1 ≤ n.toNat ∧ n.toNat ≤ 9) : wrote ok q t :=
    setProfile_wrote (x := u.attended rest k) (acts long) selector named.1 named.2 set
  exact ⟨t, executed, short, fun long beyond => acts long _ _ (bodySetProfile_beyond beyond _),
    fun long one => writes long one set1 (by decide), fun long two => writes long two set2 (by decide),
    fun long three => writes long three set3 (by decide), fun long four => writes long four set4 (by decide),
    fun long five => writes long five set5 (by decide), fun long six => writes long six set6 (by decide),
    fun long seven => writes long seven set7 (by decide), fun long eight => writes long eight set8 (by decide),
    fun long nine => writes long nine set9 (by decide)⟩

end Sys2Proof.Machine
end

section
/-! COMMIT and CANCEL, and the tests of the edit-class requests (09, R156, R164 to R166, R170). A COMMIT that is not accepted
is answered within its take as the other edit-class requests are; an accepted one leaves its reply entry reserved. -/

namespace Sys2Proof.Machine

/-! ### The answer of a COMMIT that is not accepted (09, R165) -/

/-- The action of a COMMIT whose staging image fails a check; an image that fails none is not answered here. -/
def bodyCommit (_ : Request) (x : State) : Answer :=
  match x.staging.failure with
  | some (check, index) =>
    { result := .inconsistent, data := [BitVec.ofNat 8 check, BitVec.ofNat 8 index], state := x }
  | none => x.refuse .nothing

/-- A COMMIT is accepted: the owner's, with no commit pending and no failing check (09, R164, R166). -/
def State.accepts (r : Request) (x : State) : Prop := State.owns r x ∧ x.staging.failure = none

theorem answered_full {h : Request → State → Answer} {r : Request} {x : State} (full : x.freeReply = none) :
    State.answered h r x = x := by
  rw [State.answered, full]

theorem answered_reserved {h : Request → State → Answer} {r : Request} {x : State} {k : Fin 4}
    (free : x.freeReply = some k) : State.answered h r x =
      (h r (x.markReply k .reserved)).state.placeReply k
        (r.echo (h r (x.markReply k .reserved)).result (h r (x.markReply k .reserved)).data) := by
  rw [State.answered, free]

theorem actCommit_full {r : Request} {x : State} (full : x.freeReply = none) : actCommit r x = x := by
  rw [actCommit, full]

theorem actCommit_answered {r : Request} {x : State} (unaccepted : ¬ x.accepts r) :
    actCommit r x = State.answered (State.edit 0 bodyCommit) r x := by
  cases free : x.freeReply with
  | none => rw [actCommit_full free, answered_full free]
  | some k =>
    rw [answered_reserved free, actCommit, free]
    dsimp only
    by_cases owner : x.engine.owner = some r.tag
    · have from_owner : (x.markReply k .reserved).fromOwner r = true := decide_eq_true owner
      rw [if_pos from_owner]
      by_cases unfrozen : x.engine.commit = none
      · have running : ¬ (x.markReply k .reserved).clearIdle.engine.commit.isSome = true := by
          simp [State.clearIdle, unfrozen]
        have checked : x.staging.failure ≠ none := fun passes => unaccepted ⟨⟨owner, unfrozen⟩, passes⟩
        obtain ⟨⟨check, index⟩, fails⟩ := Option.ne_none_iff_exists'.mp checked
        have failure : (x.markReply k .reserved).clearIdle.staging.failure = some (check, index) := fails
        rw [if_neg running, edit_acts (x := x.markReply k .reserved) ⟨owner, unfrozen⟩ (Nat.zero_le _), bodyCommit, failure]
      · have frozen : (x.markReply k .reserved).clearIdle.engine.commit.isSome = true :=
          Option.isSome_iff_ne_none.mpr unfrozen
        rw [if_pos frozen, edit_frozen (x := x.markReply k .reserved) owner unfrozen]
        rfl
    · have from_other : ¬ (x.markReply k .reserved).fromOwner r = true := fun h => owner (of_decide_eq_true h)
      rw [if_neg from_other, edit_foreign (x := x.markReply k .reserved) owner]
      rfl

theorem exec_commit_answered {r : Request} {rest : List Request} {s : State} {k : Fin 4}
    (taken : s.finish.takes .commit r rest) (free : s.finish.freeReply = some k) (unaccepted : ¬ s.finish.accepts r) :
    exec .commit s = .next ((State.edit 0 bodyCommit r (s.finish.reserving rest k)).state.placeReply k
      (r.echo (State.edit 0 bodyCommit r (s.finish.reserving rest k)).result
        (State.edit 0 bodyCommit r (s.finish.reserving rest k)).data)) := by
  have executed : exec .commit s = .next (actCommit r (s.finish.dequeue rest)) := exec_take (row := .commit) taken
  rw [executed, actCommit_answered (x := s.finish.dequeue rest) unaccepted, answered_eq free]
  rfl

/-! ### The tests of the edit-class requests (09, R156) -/

/-- What the session and freeze tests leave of a request that fails one. -/
def State.testedEdit (r : Request) (rest : List Request) (u : State) (ran : State → Prop) : Prop :=
  (u.engine.owner ≠ some r.tag → ∃ t, ran t ∧ u.replied r .noSession [] t ∧ State.onlyAnswers rest u t) ∧
    (u.engine.owner = some r.tag → u.engine.commit ≠ none → ∃ t, ran t ∧ u.replied r .busy [] t ∧
      t = { u with
        tx := t.tx, engine := { u.engine with requests := rest, idle := 0 }, counters := (u.count 107).counters })

/-- A request answered by the edit-class tests whenever it is not the owner's of an unfrozen session. -/
theorem testedEdit_of_answer {need : Nat} {body : Request → State → Answer} {r : Request} {rest : List Request} {u : State}
    {k : Fin 4} {ran : State → Prop} (law : u.queueLaw) (free : u.freeReply = some k)
    (answers : ¬ State.owns r u → ran ((State.edit need body r (u.reserving rest k)).state.placeReply k
      (r.echo (State.edit need body r (u.reserving rest k)).result (State.edit need body r (u.reserving rest k)).data))) :
    u.testedEdit r rest ran := by
  refine ⟨fun foreign => ⟨_, answers fun owns => foreign owns.1, ?_⟩,
    fun owner frozen => ⟨_, answers fun owns => frozen owns.2, ?_⟩⟩
  · rw [edit_foreign (x := u.reserving rest k) foreign]
    exact ⟨replied_of_answer (a := (u.reserving rest k).refuse .noSession) law free rfl, onlyAnswers_placeReply rest k _ u⟩
  · rw [edit_frozen (x := u.reserving rest k) owner frozen]
    exact ⟨replied_of_answer (a := (u.attended rest k).refuse .busy) law free rfl, attended_placeReply rest k _ u⟩

/-- Settles O43: the rows share the tests of session and freeze; a COMMIT that fails one of them is not accepted. -/
theorem editRequestsAreTested : Obligations.EditRequestsAreTested := by
  intro r rest s u p listed taken law
  have answered {row : TakeRow} {need : Nat} {body : Request → State → Answer}
      (act : row.act = State.answered (State.edit need body)) (taken : u.takes row r rest)
      (free : ∃ k, u.freeReply = some k) : u.testedEdit r rest fun t => exec row.command s = .next t := by
    obtain ⟨k, free⟩ := free
    exact testedEdit_of_answer law free fun _ => exec_answered act taken free
  simp only [List.mem_cons, List.not_mem_nil, or_false] at listed
  rcases listed with rfl | rfl | rfl | rfl | rfl | rfl
  · exact answered (row := .closeEdit) rfl taken (free_of_takes taken nofun nofun nofun nofun)
  · exact answered (row := .setMatch) rfl taken (free_of_takes taken nofun nofun nofun nofun)
  · exact answered (row := .setTiming) rfl taken (free_of_takes taken nofun nofun nofun nofun)
  · exact answered (row := .setSlot) rfl taken (free_of_takes taken nofun nofun nofun nofun)
  · exact answered (row := .setProfile) rfl taken (free_of_takes taken nofun nofun nofun nofun)
  · obtain ⟨k, free⟩ := free_of_takes taken nofun nofun nofun nofun
    exact testedEdit_of_answer law free fun unowned => exec_commit_answered taken free fun accepts => unowned accepts.1

/-! ### The checks of commit validation (09, R164) -/

theorem wrongKind_iff (i : Image) (n : Fin 64) : i.wrongKind n.val = true ↔
    (i.slots[n].role = .drive ∧ (i.boxes[i.slots[n].mailbox]).kind ≠ .feed) ∨
      (i.slots[n].role = .listen ∧ (i.boxes[i.slots[n].mailbox]).kind ≠ .report) := by
  simp only [Image.wrongKind, Image.slot_fin]
  cases i.slots[n].role <;> simp

theorem namedBefore_iff (i : Image) (n : Fin 64) : i.namedBefore n.val = true ↔
    i.slots[n].role ≠ .pass ∧
      ∃ k : Fin 64, k < n ∧ i.slots[k].role ≠ .pass ∧ i.slots[k].mailbox = i.slots[n].mailbox := by
  unfold Image.namedBefore Image.binds
  simp only [Image.slot_fin, Bool.and_eq_true, decide_eq_true_eq, List.any_eq_true, List.mem_range, beq_iff_eq]
  refine and_congr_right fun _ => ⟨fun ⟨k, lower, names⟩ => ?_, fun ⟨k, lower, names⟩ => ?_⟩
  · have bound : k < 64 := lower.trans n.isLt
    rw [show k = (⟨k, bound⟩ : Fin 64).val from rfl, Image.slot_fin] at names
    exact ⟨⟨k, bound⟩, lower, names⟩
  · exact ⟨k.val, lower, by rwa [Image.slot_fin]⟩

theorem highIdentifier_iff (i : Image) (m : Fin 32) : i.highIdentifier m = true ↔
    (i.boxes[m]).kind ≠ .unused ∧ 0xEFF < (i.boxes[m]).identifier := by
  rw [Image.highIdentifier, Bool.and_eq_true, decide_eq_true_eq, decide_eq_true_eq, lastTraffic]

theorem shortPeriod_iff (i : Image) : i.shortPeriod = true ↔
    i.profile.role = .master ∧ i.profile.roundPeriod < i.profile.slotCount.leastPeriod := by
  rw [Image.shortPeriod, SlotCount.leastPeriod_eq, Bool.and_eq_true, decide_eq_true_eq, decide_eq_true_eq]

/-! ### The first failing check (09, R164, R165) -/

/-- A check over the numbers below a bound passes if no number fails it. -/
theorem find_slot_none {p : Nat → Bool} (passes : ∀ n : Fin 64, ¬ p n.val = true) : allSlots.find? p = none :=
  List.find?_eq_none.mpr fun n listed => passes ⟨n, List.mem_range.mp listed⟩

theorem find_slot_first {p : Nat → Bool} {n : Fin 64} (fails : p n.val = true)
    (first : ∀ j : Fin 64, j < n → ¬ p j.val = true) : allSlots.find? p = some n.val := by
  refine List.find?_range_eq_some.mpr ⟨fails, List.mem_range.mpr n.isLt, fun j lower => ?_⟩
  have passes := first ⟨j, lower.trans n.isLt⟩ lower
  simpa using passes

theorem find_box_none {p : Fin 32 → Bool} (passes : ∀ m, ¬ p m = true) : allBoxes.find? p = none :=
  List.find?_eq_none.mpr fun m _ => passes m

theorem find_box_first {p : Fin 32 → Bool} {m : Fin 32} (fails : p m = true) (first : ∀ j, j < m → ¬ p j = true) :
    allBoxes.find? p = some m :=
  Fin.find?_eq_find?_finRange.symm.trans
    (Fin.find?_eq_some_iff.mpr ⟨fails, fun j lower => Bool.eq_false_iff.mpr (first j lower)⟩)

section Failures

variable {i : Image}

theorem failure_first {n : Fin 64} (fails : i.wrongKind n.val = true)
    (first : ∀ j : Fin 64, j < n → ¬ i.wrongKind j.val = true) : i.failure = some (1, n.val) := by
  rw [Image.failure, find_slot_first fails first]

theorem failure_second (kinds : ∀ n : Fin 64, ¬ i.wrongKind n.val = true) {n : Fin 64}
    (fails : i.namedBefore n.val = true) (first : ∀ j : Fin 64, j < n → ¬ i.namedBefore j.val = true) :
    i.failure = some (2, n.val) := by
  rw [Image.failure, find_slot_none kinds, find_slot_first fails first]

theorem failure_third (kinds : ∀ n : Fin 64, ¬ i.wrongKind n.val = true)
    (names : ∀ n : Fin 64, ¬ i.namedBefore n.val = true) {m : Fin 32} (fails : i.highIdentifier m = true)
    (first : ∀ j, j < m → ¬ i.highIdentifier j = true) : i.failure = some (3, m.val) := by
  rw [Image.failure, find_slot_none kinds, find_slot_none names, find_box_first fails first]

theorem failure_last (kinds : ∀ n : Fin 64, ¬ i.wrongKind n.val = true)
    (names : ∀ n : Fin 64, ¬ i.namedBefore n.val = true) (identifiers : ∀ m, ¬ i.highIdentifier m = true) :
    i.failure = if i.shortPeriod then some (4, i.profile.slotCount.toNat) else none := by
  rw [Image.failure, find_slot_none kinds, find_slot_none names, find_box_none identifiers]

end Failures

/-! ### COMMIT (09, R164 to R166) -/

/-- A commit pending under a tag, its reply entry reserved (09, R155, R166). -/
def State.frozenBy (tag : Byte) (k : Fin 4) (x : State) : State :=
  { x with engine := { x.engine with commit := some { tag := tag, entry := k } } }

theorem actCommit_accepted {r : Request} {x : State} {k : Fin 4} (free : x.freeReply = some k) (accepts : x.accepts r) :
    actCommit r x = (x.markReply k .reserved).clearIdle.frozenBy r.tag k := by
  obtain ⟨⟨owner, unfrozen⟩, passes⟩ := accepts
  have from_owner : (x.markReply k .reserved).fromOwner r = true := decide_eq_true owner
  have running : ¬ (x.markReply k .reserved).clearIdle.engine.commit.isSome = true := by
    simp [State.clearIdle, unfrozen]
  have passes' : (x.markReply k .reserved).clearIdle.staging.failure = none := passes
  rw [actCommit, free]
  dsimp only
  rw [if_pos from_owner, if_neg running, passes']
  rfl

theorem attended_frozenBy (rest : List Request) (k : Fin 4) (tag : Byte) (u : State) :
    (u.attended rest k).frozenBy tag k = { u with
      tx := { u.tx with
        epoch := u.tx.epoch + 1
        placed := 0
        replies := u.tx.replies.set k { u.reply k with status := .reserved } }
      engine := { u.engine with requests := rest, idle := 0, commit := some { tag := tag, entry := k } }
      counters := (u.count 107).counters } := rfl

/-- An accepted COMMIT keeps its reply entry reserved, and no reply is placed (09, R166). -/
theorem exec_commit_accepted {r : Request} {rest : List Request} {s : State} {k : Fin 4}
    (taken : s.finish.takes .commit r rest) (free : s.finish.freeReply = some k) (accepts : s.finish.accepts r) :
    exec .commit s = .next ((s.finish.attended rest k).frozenBy r.tag k) := by
  have executed : exec .commit s = .next (actCommit r (s.finish.dequeue rest)) := exec_take (row := .commit) taken
  rw [executed, actCommit_accepted (x := s.finish.dequeue rest) ((freeReply_dequeue rest _).trans free) accepts]
  rfl

/-- A COMMIT that fails a check is answered with the check and its index (09, R165). -/
theorem exec_commit_fails {r : Request} {rest : List Request} {s : State} {check number : Nat} {index : Byte}
    (taken : s.finish.takes .commit r rest) (law : s.finish.queueLaw) (owns : State.owns r s.finish)
    (fails : s.finish.staging.failure = some (check, number)) (reported : index.toNat = number) :
    ∃ t, exec .commit s = .next t ∧ s.finish.replied r .inconsistent [BitVec.ofNat 8 check, index] t ∧
      t = { s.finish with
        tx := t.tx
        engine := { s.finish.engine with requests := rest, idle := 0 }
        counters := (s.finish.count 107).counters } := by
  obtain ⟨k, free⟩ := free_of_takes taken nofun nofun nofun nofun
  have unaccepted : ¬ s.finish.accepts r := fun accepts => nomatch fails.symm.trans accepts.2
  have failure : (s.finish.attended rest k).staging.failure = some (check, number) := fails
  have answer : State.edit 0 bodyCommit r (s.finish.reserving rest k) =
      { result := .inconsistent, data := [BitVec.ofNat 8 check, index], state := s.finish.attended rest k } := by
    rw [edit_acts (x := s.finish.reserving rest k) owns (Nat.zero_le _)]
    unfold bodyCommit
    rw [show (s.finish.reserving rest k).clearIdle = s.finish.attended rest k from rfl, failure, ← reported]
    simp
  refine ⟨_, exec_commit_answered taken free unaccepted, ?_⟩
  rw [answer]
  exact ⟨replied_of_answer (a := { result := .inconsistent, data := _, state := s.finish.attended rest k }) law free rfl,
    attended_placeReply rest k _ s.finish⟩

theorem slotCount_toNat (c : SlotCount) : c.toNat = match c with
    | .c8 => 8
    | .c16 => 16
    | .c32 => 32
    | .c64 => 64 := by
  cases c <;> rfl

/-- Settles O48: the four checks in their order decide whether a COMMIT is accepted. -/
theorem commitValidates : Obligations.CommitValidates := by
  intro r rest s u i check1 check2 check3 check4 taken owns
  have kind (n : Fin 64) : i.wrongKind n.val = true ↔ check1 n := wrongKind_iff i n
  have named (n : Fin 64) : i.namedBefore n.val = true ↔ check2 n := namedBefore_iff i n
  have high (m : Fin 32) : i.highIdentifier m = true ↔ check3 m := highIdentifier_iff i m
  have short : i.shortPeriod = true ↔ check4 := shortPeriod_iff i
  simp only [← kind, ← named, ← high, ← short]
  refine ⟨fun kinds names identifiers period => ?_, fun check index law failing => ?_⟩
  · obtain ⟨k, free⟩ := free_of_takes taken nofun nofun nofun nofun
    have passes : i.failure = none := by rw [failure_last kinds names identifiers, if_neg period]
    exact ⟨_, k, exec_commit_accepted taken free ⟨owns, passes⟩, free, attended_frozenBy rest k r.tag u⟩
  · rcases failing with ⟨rfl, n, number, fails, first⟩ | ⟨rfl, kinds, n, number, fails, first⟩ |
      ⟨rfl, kinds, names, m, number, fails, first⟩ | ⟨rfl, kinds, names, identifiers, period, number⟩
    · exact exec_commit_fails taken law owns (failure_first fails first) number
    · exact exec_commit_fails taken law owns (failure_second kinds fails first) number
    · exact exec_commit_fails taken law owns (failure_third kinds names fails first) number
    · have fails : i.failure = some (4, i.profile.slotCount.toNat) := by
        rw [failure_last kinds names identifiers, if_pos period]
      exact exec_commit_fails taken law owns fails (number.trans (slotCount_toNat _).symm)

/-! ### CANCEL (09, R170) -/

/-- The reply to a withdrawn COMMIT (09, R170). -/
def PendingCommit.cancelled (c : PendingCommit) : Reply := { code := 0x0E, tag := c.tag, result := .cancelled, data := [] }

/-- A pending commit withdrawn, its reply placed (09, R170). -/
def State.withdrawn (c : PendingCommit) (x : State) : State :=
  { x.placeReply c.entry c.cancelled with engine := { x.engine with commit := none } }

section Cancel

variable {r : Request} {x : State}

theorem answerCancel_withdraws {c : PendingCommit} (owner : x.engine.owner = some r.tag)
    (pending : x.engine.commit = some c) : answerCancel r x = (x.clearIdle.withdrawn c).okay [] := by
  simp only [answerCancel, owner, if_true, State.clearIdle, pending]
  rfl

theorem answerCancel_nothing (owner : x.engine.owner = some r.tag) (unfrozen : x.engine.commit = none) :
    answerCancel r x = x.clearIdle.refuse .nothing := by
  simp only [answerCancel, owner, if_true, State.clearIdle, unfrozen]

theorem answerCancel_tooLate (closed : x.engine.owner = none) (last : x.engine.lastCommit = some r.tag) :
    answerCancel r x = x.refuse .tooLate := by
  simp only [answerCancel, closed, last, if_true]

theorem answerCancel_noSession (stranger : (x.engine.owner = none ∧ x.engine.lastCommit ≠ some r.tag) ∨
    (∃ o, x.engine.owner = some o ∧ o ≠ r.tag)) : answerCancel r x = x.refuse .noSession := by
  unfold answerCancel
  rcases stranger with ⟨closed, last⟩ | ⟨o, owner, other⟩
  · rw [closed]
    exact if_neg last
  · rw [owner]
    exact if_neg other

end Cancel

/-- The CANCELLED reply is the event's first placement, and the reply to CANCEL its second (09, R170). -/
theorem withdrawn_placedInOrder {u : State} (law : u.queueLaw) (rest : List Request) (c : PendingCommit) (k : Fin 4)
    (reply : Reply) : u.placedInOrder [.reply c.entry, .reply k]
      (((u.attended rest k).withdrawn c).placeReply k reply) := by
  have before : ∀ e ∈ u.tx.queued, e.stamp < (u.tx.epoch + 1) * 64 := fun e queued => by
    have := law.1 e queued
    omega
  have first : u.placedInOrder [.reply c.entry] (((u.attended rest k).withdrawn c).setReply k
      { status := .queued, content := reply }) :=
    placedInOrder_one (v := (u.attended rest k).setReply c.entry { status := .queued, content := c.cancelled }) rfl before
  refine placedInOrder_snoc first fun e queued => ?_
  rcases mem_insertEntry.mp queued with rfl | queued
  · exact Nat.lt_succ_self _
  · exact (before e queued).trans_le (Nat.le_add_right _ _)

/-- Two placements, written out. -/
theorem placedInOrder_pair {a b : Owner} {u t : State} (h : u.placedInOrder [a, b] t) :
    ∃ x y, t.tx.queued = u.tx.queued ++ [x, y] ∧ x.owner = a ∧ y.owner = b ∧ x.stamp < y.stamp := by
  obtain ⟨es, owners, -, queued, ordered, -⟩ := h
  match es, owners with
  | [x, y], owners =>
    obtain ⟨first, second⟩ : x.owner = a ∧ y.owner = b := by simpa using owners
    exact ⟨x, y, queued, first, second, by simpa using ordered⟩

theorem withdrawn_placeReply (rest : List Request) (k : Fin 4) (reply : Reply) (c : PendingCommit) (u : State) :
    ((u.attended rest k).withdrawn c).placeReply k reply = { u with
      tx := (((u.attended rest k).withdrawn c).placeReply k reply).tx
      engine := { u.engine with requests := rest, idle := 0, commit := none }
      counters := (u.count 107).counters } := by
  rw [placeReply_eq, State.withdrawn, placeReply_eq, State.attended, reserving_eq]
  rfl

theorem withdrawn_replies (rest : List Request) {k : Fin 4} (reply : Reply) {c : PendingCommit} (u : State)
    (apart : c.entry ≠ k) :
    (((u.attended rest k).withdrawn c).placeReply k reply).reply c.entry =
        { status := .queued, content := c.cancelled } ∧
      (((u.attended rest k).withdrawn c).placeReply k reply).reply k = { status := .queued, content := reply } := by
  have apart' : k.val ≠ c.entry.val := fun same => apart (Fin.ext same.symm)
  simp [State.reply, placeReply_replies, State.withdrawn, apart']

/-- Settles O49: CANCEL by the session's owner, the pending commit and the token of the last one. -/
theorem cancelWithdrawsTheCommit : Obligations.CancelWithdrawsTheCommit := by
  intro r rest s u taken law
  obtain ⟨j, reserved⟩ := free_of_takes taken nofun nofun nofun nofun
  have executed := exec_answered (row := .cancel) rfl taken reserved
  refine ⟨fun c k owner pending free apart => ?_, fun owner unfrozen => ?_, fun closed last => ?_, fun stranger => ?_⟩
  · obtain rfl : j = k := Option.some.inj (reserved.symm.trans free)
    rw [answerCancel_withdraws (x := u.reserving rest j) owner pending] at executed
    obtain ⟨x, y, queued, first, second, ordered⟩ :=
      placedInOrder_pair (withdrawn_placedInOrder law rest c j (r.echo .ok []))
    obtain ⟨cancelled, answered⟩ := withdrawn_replies rest (r.echo .ok []) u apart
    exact ⟨_, x, y, executed, cancelled, answered, queued, first, second, ordered,
      withdrawn_placeReply rest j _ c u⟩
  · rw [answerCancel_nothing (x := u.reserving rest j) owner unfrozen] at executed
    exact ⟨_, executed, replied_of_answer (a := (u.attended rest j).refuse .nothing) law reserved rfl,
      attended_placeReply rest j _ u⟩
  · rw [answerCancel_tooLate (x := u.reserving rest j) closed last] at executed
    exact ⟨_, executed, replied_of_answer (a := (u.reserving rest j).refuse .tooLate) law reserved rfl,
      onlyAnswers_placeReply rest j _ u⟩
  · rw [answerCancel_noSession (x := u.reserving rest j) stranger] at executed
    exact ⟨_, executed, replied_of_answer (a := (u.reserving rest j).refuse .noSession) law reserved rfl,
      onlyAnswers_placeReply rest j _ u⟩

end Sys2Proof.Machine
end

section
/-! The counts of a round boundary, and the steps they bring about (09, R159; 10, R178, R185, R186). -/

namespace Sys2Proof.Machine

/-! ### The counts (04, R70) -/

section Counts

variable {s : State}

theorem sessionWork_frozen {c : PendingCommit} (pending : s.engine.commit = some c) :
    s.work .session = (s, some .swap) := by
  simp only [State.work, State.sessionWork, pending]

theorem sessionWork_closed (unfrozen : s.engine.commit = none) (closed : s.engine.owner = none) :
    s.work .session = (s, none) := by
  simp only [State.work, State.sessionWork, unfrozen, closed]

theorem sessionWork_open {o : Byte} (unfrozen : s.engine.commit = none) (owner : s.engine.owner = some o) :
    s.work .session = ({ s with engine := { s.engine with idle := s.engine.idle + 1 } },
      if s.engine.idle + 1 = s.active.profile.idleLimit then some .sessionExpiry else none) := by
  simp only [State.work, State.sessionWork, unfrozen, owner]

theorem snapshotWork_stopped (stopped : s.active.profile.snapshotInterval = 0) : s.work .snapshotCount = (s, none) :=
  if_pos stopped

theorem snapshotWork_counting (runs : s.active.profile.snapshotInterval ≠ 0) : s.work .snapshotCount =
    ({ s with counters := { s.counters with interval := s.counters.interval + 1 } },
      if s.active.profile.snapshotInterval ≤ s.counters.interval + 1 then some .snapshotExpiry else none) :=
  if_neg runs

/-- The three conditions of the repeat count (10, R178). -/
theorem repeatRuns_iff (s : State) : s.repeatRuns = true ↔ s.active.profile.noticeRepeat ≠ 0 ∧
    s.notices.latched &&& s.notices.enabled ≠ 0 ∧ s.hasQueued Owner.isNotice = false ∧
      s.hasInFlight Owner.isNotice = false := by
  rw [State.repeatRuns, Bool.and_eq_true, Bool.and_eq_true, decide_eq_true_eq, decide_eq_true_eq, Bool.not_eq_true',
    Bool.or_eq_false_iff, and_assoc]
  rfl

theorem repeatWork_counting (runs : s.repeatRuns = true) : s.work .noticeRepeat =
    ({ s with notices := { s.notices with repeatCount := s.notices.repeatCount + 1 } },
      if s.active.profile.noticeRepeat * 16 ≤ s.notices.repeatCount + 1 then some .repeatExpiry else none) := by
  simp [State.work, State.repeatWork, runs]

theorem repeatWork_stopped (stopped : ¬ s.repeatRuns = true) : s.work .noticeRepeat =
    ({ s with notices := { s.notices with repeatCount := 0 } }, none) := by
  simp [State.work, State.repeatWork, stopped]

end Counts

/-! ### The steps due -/

/-- The step a boundary waits for is taken, and the boundary goes on from the state it leaves (04, R70; log 5). -/
theorem exec_due_runs {b : Boundary} {s : State} (waits : s.boundary = some b) :
    ∃ t, exec b.due.command s = .next t ∧
      State.boundaryRuns b.number b.cause b.rest (State.performDue b.due b.number { s with boundary := none }) t :=
  ⟨_, exec_due waits, continueBoundary_runs _ _ _ _⟩

theorem expireSession_eq (s : State) : s.expireSession = { s with
    staging := s.active
    engine := { s.engine with owner := none, idle := 0 }
    tx := { s.tx with queued := s.expireSession.tx.queued }
    notices := { s.notices with
      latched := s.expireSession.notices.latched
      deferred := s.expireSession.notices.deferred
      repeatCount := s.expireSession.notices.repeatCount } } := by
  have told := (latch_tells .sessionExpired (State.closeSession { s with staging := s.active })).frame
  change s.expireSession = _ at told
  generalize s.expireSession = v at told ⊢
  rw [told]
  rfl

theorem takeSnapshot_eq (s : State) : s.takeSnapshot = { s with
    counters := {
      live := Vector.replicate 111 0, snap := s.counters.live, sequence := s.counters.sequence + 1, interval := 0 }
    tx := { s.tx with queued := s.takeSnapshot.tx.queued }
    notices := { s.notices with
      latched := s.takeSnapshot.notices.latched
      deferred := s.takeSnapshot.notices.deferred
      repeatCount := s.takeSnapshot.notices.repeatCount } } := by
  have told := (latch_tells .snapshotReady { s with counters := {
    live := Vector.replicate 111 0, snap := s.counters.live, sequence := s.counters.sequence + 1, interval := 0 } }).frame
  change s.takeSnapshot = _ at told
  generalize s.takeSnapshot = v at told ⊢
  rw [told]

/-- Where there is no NOTICE entry the expiry of the repeat places one (10, R176, R178). -/
theorem expireRepeat_of_absent {s : State} (unqueued : s.hasQueued Owner.isNotice = false)
    (landed : s.hasInFlight Owner.isNotice = false) : s.expireRepeat =
      { s.place .notice with notices := { s.notices with repeatCount := 0 } } := by
  rw [State.expireRepeat, offer_of_absent unqueued landed]

/-- Settles O32: each count by its conditions, and each step by what it leaves. -/
theorem countsExpireAtABoundary : Obligations.CountsExpireAtABoundary := by
  refine ⟨fun s => ⟨fun ⟨c, pending⟩ => sessionWork_frozen pending, sessionWork_closed, fun o => sessionWork_open⟩,
    fun s => ⟨snapshotWork_stopped, snapshotWork_counting⟩,
    fun s => ⟨fun counting => repeatWork_counting ((repeatRuns_iff s).mpr counting),
      fun stopped => repeatWork_stopped fun runs => stopped ((repeatRuns_iff s).mp runs)⟩, ?_, ?_, ?_⟩
  · intro b s waits due
    obtain ⟨t, executed, runs⟩ := exec_due_runs waits
    rw [due] at executed runs
    exact ⟨_, t, executed, runs, expireSession_eq { s with boundary := none }, latch_isIn_self _ _⟩
  · intro b s waits due
    obtain ⟨t, executed, runs⟩ := exec_due_runs waits
    rw [due] at executed runs
    exact ⟨_, t, executed, runs, takeSnapshot_eq { s with boundary := none }, latch_isIn_self _ _⟩
  · intro b s waits due unqueued landed
    obtain ⟨t, executed, runs⟩ := exec_due_runs waits
    rw [due] at executed runs
    refine ⟨_, t, executed, runs, ?_⟩
    rw [show State.performDue .repeatExpiry b.number { s with boundary := none } = _ from
      expireRepeat_of_absent (s := { s with boundary := none }) unqueued landed]
    exact ⟨rfl, ⟨_, mem_insertEntry.mpr (.inl rfl), rfl, rfl⟩, fun x queued => mem_insertEntry.mpr (.inr queued)⟩

end Sys2Proof.Machine
end

section
/-! The swap of a pending commit (09, R167 to R169; 01, R12). It is taken in two parts: the staging image is installed, with
its effects on the mailboxes and counts and with COMMIT's reply; then the role changes, if it does, which ends the lock of the
old role and may give class LOST (04, R72 to R74). -/

namespace Sys2Proof.Machine

/-! ### The repeat count as notices are offered (10, R176, R178) -/

/-- From `s` to `t` the repeat count is left, or a NOTICE entry has been placed and it is 0; no entry leaves the queue. -/
structure Recounts (s t : State) : Prop where
  count : t.notices.repeatCount = s.notices.repeatCount ∨
    (t.notices.repeatCount = 0 ∧ t.hasQueued Owner.isNotice = true)
  queued : ∀ e ∈ s.tx.queued, e ∈ t.tx.queued

theorem hasQueued_mono {p : Owner → Bool} {s t : State} (queued : ∀ e ∈ s.tx.queued, e ∈ t.tx.queued)
    (h : s.hasQueued p = true) : t.hasQueued p = true := by
  simp only [State.hasQueued, List.any_eq_true] at h ⊢
  obtain ⟨e, waits, owned⟩ := h
  exact ⟨e, queued e waits, owned⟩

namespace Recounts

variable {s t u : State}

theorem refl (s : State) : Recounts s s := ⟨.inl rfl, fun _ h => h⟩

/-- What leaves the repeat count and drops no entry. -/
theorem of_same (count : t.notices.repeatCount = s.notices.repeatCount) (queued : ∀ e ∈ s.tx.queued, e ∈ t.tx.queued) :
    Recounts s t :=
  ⟨.inl count, queued⟩

theorem trans (h : Recounts s t) (g : Recounts t u) : Recounts s u where
  count := by
    rcases g.count with same | zero
    · rcases h.count with same' | ⟨zero, notice⟩
      · exact .inl (same.trans same')
      · exact .inr ⟨same.trans zero, hasQueued_mono g.queued notice⟩
    · exact .inr zero
  queued e waits := g.queued e (h.queued e waits)

theorem offer (s : State) : Recounts s s.offer := by
  refine ⟨?_, fun e => mem_offer s⟩
  unfold State.offer
  split
  · exact .inl rfl
  · split
    · exact .inl rfl
    · exact .inr ⟨rfl, List.any_eq_true.mpr ⟨_, mem_insertEntry.mpr (.inl rfl), rfl⟩⟩

theorem latch (c : Condition) (s : State) : Recounts s (s.latch c) := by
  have flagged : Recounts s { s with notices := { s.notices with latched := s.notices.latched ||| c.bit } } :=
    of_same rfl fun _ h => h
  unfold State.latch
  dsimp only
  split
  · exact refl s
  · split
    · exact flagged.trans (offer _)
    · exact flagged

theorem markAttention (m : Fin 32) (s : State) : Recounts s (s.markAttention m) := by
  have marked : Recounts s { s with notices := { s.notices with
      attention := s.notices.attention ||| BitVec.twoPow 32 m.val } } := of_same rfl fun _ h => h
  rw [markAttention_eq]
  split
  · split
    · exact marked.trans (latch _ _)
    · exact marked
  · exact refl s

theorem testChange (m : Fin 32) (previous : SlotClass) (s : State) : Recounts s (s.testChange m previous) := by
  have triggered : Recounts s (s.trigger m) := of_same (by rw [trigger_eq]) (trigger_only m s).queued
  rw [testChange_eq]
  generalize fired : (if triggers (s.config m) (s.box m) previous = true then s.trigger m else s) = x
  have tested : Recounts s x := by
    rw [← fired]
    split
    · exact triggered
    · exact refl s
  dsimp only
  split
  · exact tested.trans (markAttention m x)
  · exact tested

theorem classLost (m : Fin 32) (s : State) : Recounts s (s.classLost m) :=
  trans (t := s.setBox m { s.box m with classSeen := .lost }) (of_same rfl fun _ h => h) (testChange m _ _)

theorem giveClassLost (s : State) : Recounts s s.giveClassLost := by
  have list (l : List (Fin 32)) : ∀ x : State,
      Recounts x (l.foldl (fun x m => if x.reachedByLoss m then x.classLost m else x) x) := by
    induction l with
    | nil => exact refl
    | cons m l ih =>
      intro x
      refine trans ?_ (ih _)
      dsimp only
      split
      · exact classLost m x
      · exact refl x
  exact list allBoxes s

end Recounts

/-! ### The staging image installed (09, R167 to R169) -/

/-- COMMIT's reply at the swap, with the number of the round (09, R167). -/
def PendingCommit.done (c : PendingCommit) (n : Byte) : Reply :=
  { code := 0x0E, tag := c.tag, result := .ok, data := [n] }

/-- The session closed by a swap, the tag of its commit kept (09, R155, R167). -/
def State.committed (tag : Byte) (x : State) : State :=
  { x with engine := { x.engine with owner := none, idle := 0, lastCommit := some tag, commit := none } }

/-- What a swap does, its mailboxes reset, up to COMMIT's reply: the counts and the session (09, R167, R169). -/
def State.replying (c : PendingCommit) (n : Byte) (old new : Profile) (w : State) : State :=
  ((w.profileCounts old new).committed c.tag).placeReply c.entry (c.done n)

/-- The swap up to the change of the role. -/
def State.installed (c : PendingCommit) (n : Byte) (s : State) : State :=
  State.latch .commitDone ((State.resetAllChanged s.active s.staging { s with active := s.staging }).replying c n
    s.active.profile s.staging.profile)

theorem swapCommit_eq (c : PendingCommit) (n : Byte) (s : State) :
    s.swapCommit c n = (s.installed c n).changeRole s.active.profile.role s.staging.profile.role := rfl

/-- The counts that a changed interval or repeat sets to 0 (09, R169). -/
theorem profileCounts_eq (old new : Profile) (s : State) : s.profileCounts old new = { s with
    counters := { s.counters with
      interval := if old.snapshotInterval = new.snapshotInterval then s.counters.interval else 0 }
    notices := { s.notices with
      repeatCount := if old.noticeRepeat = new.noticeRepeat then s.notices.repeatCount else 0 } } := by
  unfold State.profileCounts
  dsimp only
  split <;> split <;> rfl

theorem replying_eq (c : PendingCommit) (n : Byte) (old new : Profile) (w : State) : w.replying c n old new = { w with
    tx := (w.placeReply c.entry (c.done n)).tx
    engine := { w.engine with owner := none, idle := 0, lastCommit := some c.tag, commit := none }
    counters := { w.counters with
      interval := if old.snapshotInterval = new.snapshotInterval then w.counters.interval else 0 }
    notices := { w.notices with
      repeatCount := if old.noticeRepeat = new.noticeRepeat then w.notices.repeatCount else 0 } } := by
  rw [State.replying, profileCounts_eq]
  rfl

/-- What is placed after the resets of a swap is no report, and the mailboxes stay as the resets have left them. -/
structure Announces (w x : State) : Prop where
  boxes : x.boxes = w.boxes
  live : ∀ k, x.live k = w.live k
  attention : x.notices.attention = w.notices.attention
  hold : x.engine.hold = w.engine.hold
  queued : ∀ e ∈ w.tx.queued, e ∈ x.tx.queued
  placed : ∀ e ∈ x.tx.queued, e ∈ w.tx.queued ∨ ∀ m, e.owner.isReportOf m = false

theorem IsReset.announced {m : Fin 32} {s w x : State} (h : IsReset m s w) (g : Announces w x) : IsReset m s x where
  box := (box_congr g.boxes m).trans h.box
  a := (g.live _).trans h.a
  b := (g.live _).trans h.b
  c := (g.live _).trans h.c
  attention := by rw [g.attention]; exact h.attention
  queued e waits := (g.placed e waits).elim (h.queued e) fun other => other m
  hold held := by rw [g.hold]; exact h.hold held

theorem IsKept.announced {m : Fin 32} {s w x : State} (h : IsKept m s w) (g : Announces w x) : IsKept m s x where
  box := (box_congr g.boxes m).trans h.box
  a := (g.live _).trans h.a
  b := (g.live _).trans h.b
  c := (g.live _).trans h.c
  attention := by rw [g.attention]; exact h.attention
  queued e waits owned := g.queued e (h.queued e waits owned)
  hold held := by rw [g.hold]; exact h.hold held

theorem replying_announces (c : PendingCommit) (n : Byte) (old new : Profile) (w : State) :
    Announces w ((w.replying c n old new).latch .commitDone) := by
  have told : Told (w.replying c n old new) ((w.replying c n old new).latch .commitDone) := latch_tells .commitDone _
  have adds : Adds (fun o => ∀ m, o.isReportOf m = false) (w.replying c n old new)
    ((w.replying c n old new).latch .commitDone) := (Adds.refl _ _).latch (fun _ => rfl) .commitDone
  have before := replying_eq c n old new w
  generalize (w.replying c n old new).latch .commitDone = x at told adds ⊢
  generalize w.replying c n old new = y at told adds before
  have queue : y.tx.queued = (w.placeReply c.entry (c.done n)).tx.queued := by rw [before]
  refine ⟨?_, fun k => ?_, ?_, ?_, fun e waits => adds.kept e ?_, fun e waits => ?_⟩
  · rw [told.boxes, before]
  · rw [live_congr told.counters, before]
    rfl
  · rw [told.attention, before]
  · rw [told.frame, before]
  · rw [queue]
    exact mem_insertEntry.mpr (.inr waits)
  · rcases adds.new e waits with earlier | ⟨-, -, other⟩
    · rw [queue] at earlier
      rcases mem_insertEntry.mp earlier with rfl | earlier
      · exact .inr fun _ => rfl
      · exact .inl earlier
    · exact .inr other

/-- What a swap has done when its role comes to change (09, R167 to R169). -/
structure Installs (c : PendingCommit) (n : Byte) (s x : State) : Prop where
  frame : x = { s with
    active := s.staging
    boxes := x.boxes
    tx := x.tx
    engine := { s.engine with
      owner := none, idle := 0, commit := none, lastCommit := some c.tag
      hold := { s.engine.hold with valid := x.engine.hold.valid } }
    notices := { x.notices with enabled := s.notices.enabled, sequence := s.notices.sequence }
    counters := { s.counters with live := x.counters.live, interval := x.counters.interval } }
  replies : x.tx.replies = s.tx.replies.set c.entry { status := .queued, content := c.done n }
  placed : ∃ e ∈ x.tx.queued, e.owner = .reply c.entry ∧ e.attempts = 0
  latched : Condition.commitDone.isIn x.notices.latched = true
  changed : ∀ m, s.active.changes s.staging m → IsReset m s x
  kept : ∀ m, ¬ s.active.changes s.staging m → IsKept m s x
  live : ∀ k : Fin 111, 96 ≤ k.val → x.live k = s.live k
  interval : x.counters.interval =
    if s.active.profile.snapshotInterval = s.staging.profile.snapshotInterval then s.counters.interval else 0
  repeats : x.notices.repeatCount =
      (if s.active.profile.noticeRepeat = s.staging.profile.noticeRepeat then s.notices.repeatCount else 0) ∨
    (x.notices.repeatCount = 0 ∧ x.hasQueued Owner.isNotice = true)

theorem installed_installs (c : PendingCommit) (n : Byte) (s : State) : Installs c n s (s.installed c n) := by
  obtain ⟨reset, kept, only⟩ := resetAllChanged_spec s.active s.staging { s with active := s.staging }
  unfold State.installed
  generalize State.resetAllChanged s.active s.staging { s with active := s.staging } = w at reset kept only ⊢
  have before := replying_eq c n s.active.profile s.staging.profile w
  have announces := replying_announces c n s.active.profile s.staging.profile w
  generalize w.replying c n s.active.profile s.staging.profile = y at before announces ⊢
  have told : Told y (y.latch .commitDone) := latch_tells .commitDone y
  have recounts : Recounts y (y.latch .commitDone) := Recounts.latch .commitDone y
  have latched : Condition.commitDone.isIn (y.latch .commitDone).notices.latched = true := latch_isIn_self _ _
  generalize y.latch .commitDone = x at told recounts latched announces ⊢
  refine ⟨?_, ?_, ?_, latched, fun m changed => ?_, fun m same => ?_,
    fun k whole => (announces.live k).trans (only.live k whole), ?_, ?_⟩
  · rw [told.frame, before, only.frame]
  · rw [told.frame, before, only.frame]
    rfl
  · rw [before] at recounts
    exact ⟨_, recounts.queued _ (mem_insertEntry.mpr (.inl rfl)), rfl, rfl⟩
  · obtain ⟨box, a, b, c, attention, queued, hold⟩ := (reset m changed).announced announces
    exact ⟨box, a, b, c, attention, queued, hold⟩
  · obtain ⟨box, a, b, c, attention, queued, hold⟩ := (kept m same).announced announces
    exact ⟨box, a, b, c, attention, queued, hold⟩
  · rw [told.counters, before, only.frame]
  · have count := recounts.count
    rw [before, only.frame] at count
    exact count

end Sys2Proof.Machine
end

section
/-! The change of the role at a swap (04, R72 to R74; 03, R47, R53), and the swap as a whole (09, R167). -/

namespace Sys2Proof.Machine

/-! ### Reports that class LOST brings (04, R71; 05, R79) -/

theorem Owner.isReportOf_unique {o : Owner} {m j : Fin 32} (hm : o.isReportOf m = true) (hj : o.isReportOf j = true) :
    j = m := by
  cases o with
  | report k g =>
    simp only [Owner.isReportOf, beq_iff_eq] at hm hj
    rw [← hj, hm]
  | reply _ | notice | discovery => cases hm

/-- Class LOST queues no report of a mailbox it does not reach. -/
theorem giveClassLost_spares {m : Fin 32} {s : State} (spared : ¬ s.dependsOnLock m) :
    ∀ e ∈ s.giveClassLost.tx.queued, e.owner.isReportOf m = true → e ∈ s.tx.queued := by
  have list (l : List (Fin 32)) : ∀ x : State, ¬ x.dependsOnLock m →
      ∀ e ∈ (l.foldl (fun x j => if x.reachedByLoss j then x.classLost j else x) x).tx.queued,
        e.owner.isReportOf m = true → e ∈ x.tx.queued := by
    induction l with
    | nil => exact fun x _ e waits _ => waits
    | cons j l ih =>
      intro x spared e waits owned
      by_cases reached : x.reachedByLoss j = true
      · have apart : m ≠ j := fun same => spared (same ▸ (reachedByLoss_iff x j).mp reached)
        have only := classLost_only j x
        have spared' : ¬ (x.classLost j).dependsOnLock m := by
          simpa only [State.dependsOnLock, State.config, only.mailboxes.active, only.box m apart] using spared
        rw [List.foldl_cons, if_pos reached] at waits
        rcases only.placed e (ih _ spared' e waits owned) with earlier | notice | other
        · exact earlier
        · rw [notice] at owned
          cases owned
        · exact absurd (Owner.isReportOf_unique other owned) apart
      · rw [List.foldl_cons, if_neg reached] at waits
        exact ih x spared e waits owned
  unfold State.giveClassLost
  generalize allBoxes = l
  exact list l s spared

/-! ### The change of the role (04, R72 to R74) -/

/-- What a change of the role leaves of the part, `lost` saying that it ends a lock (04, R71, R73, R74). -/
structure RoleChanged (lost : Prop) (x t : State) : Prop where
  frame : t = { x with
    boxes := t.boxes
    ring := t.ring
    tx := { x.tx with queued := t.tx.queued }
    notices := { t.notices with enabled := x.notices.enabled, sequence := x.notices.sequence }
    counters := { x.counters with live := t.counters.live } }
  live : ∀ k : Fin 111, (∀ m : Fin 32, k ≠ counterB m) → t.live k = x.live k
  latched : ∀ c : Condition, c.isIn x.notices.latched = true → c.isIn t.notices.latched = true
  recounts : Recounts x t
  reached : ∀ m, lost ∧ x.dependsOnLock m → State.tested m { x.box m with classSeen := .lost } x t
  spared : ∀ m, ¬ (lost ∧ x.dependsOnLock m) →
    SameAt m x t ∧ ∀ e ∈ t.tx.queued, e.owner.isReportOf m = true → e ∈ x.tx.queued
  told : lost → Condition.ringLost.isIn t.notices.latched = true

/-- The ring port alone changes. -/
theorem RoleChanged.of_ring {lost : Prop} (unlost : ¬ lost) (x : State) (g : RingPort) :
    RoleChanged lost x { x with ring := g } :=
  ⟨rfl, fun _ _ => rfl, fun _ h => h, Recounts.of_same rfl fun _ h => h, fun _ h => absurd h.1 unlost,
    fun _ _ => ⟨⟨rfl, rfl, rfl⟩, fun _ h _ => h⟩, fun h => absurd h unlost⟩

/-- What the ring port held before makes no difference to the mailboxes. -/
theorem RoleChanged.before {lost : Prop} {x t : State} {g : RingPort} (h : RoleChanged lost { x with ring := g } t) :
    RoleChanged lost x t where
  frame := by rw [h.frame]
  live := h.live
  latched := h.latched
  recounts := ⟨h.recounts.count, h.recounts.queued⟩
  reached := h.reached
  spared m unreached := by
    obtain ⟨⟨box, live, attention⟩, queued⟩ := h.spared m unreached
    exact ⟨⟨box, live, attention⟩, queued⟩
  told := h.told

/-- Nor does what it holds after. -/
theorem RoleChanged.after {lost : Prop} {x t : State} (h : RoleChanged lost x t) (g : RingPort) :
    RoleChanged lost x { t with ring := g } where
  frame := by rw [h.frame]
  live := h.live
  latched := h.latched
  recounts := ⟨h.recounts.count, h.recounts.queued⟩
  reached := h.reached
  spared m unreached := by
    obtain ⟨⟨box, live, attention⟩, queued⟩ := h.spared m unreached
    exact ⟨⟨box, live, attention⟩, queued⟩
  told := h.told

/-- Class LOST after RING_LOST has been told (04, R71). -/
theorem lost_roleChanged {lost : Prop} (loss : lost) (x : State) : RoleChanged lost x (x.latch .ringLost).giveClassLost := by
  obtain ⟨gives, only⟩ := giveClassLost_gives (x.latch .ringLost)
  have told : Told x (x.latch .ringLost) := latch_tells .ringLost x
  have adds : Adds (fun o => ∀ m, o.isReportOf m = false) x (x.latch .ringLost) :=
    (Adds.refl _ x).latch (fun _ => rfl) .ringLost
  have recounts := (Recounts.latch .ringLost x).trans (Recounts.giveClassLost _)
  have latched : Condition.ringLost.isIn (x.latch .ringLost).notices.latched = true := latch_isIn_self _ _
  have spares (m : Fin 32) := giveClassLost_spares (m := m) (s := x.latch .ringLost)
  generalize (x.latch .ringLost).giveClassLost = t at gives only recounts spares ⊢
  generalize x.latch .ringLost = y at gives only told adds latched spares
  have gives' : State.givesClassLost x t := givesClassLost_congr told.active told.boxes (congrArg BusPort.flight told.bus)
    told.attention (fun m => live_congr told.counters _) gives
  have depends (m : Fin 32) : y.dependsOnLock m ↔ x.dependsOnLock m := by
    simp only [State.dependsOnLock, config_congr told.active, told.active, box_congr told.boxes]
  refine ⟨?_, fun k own => (only.live k own).trans (live_congr told.counters k),
    fun c was => only.latched c (adds.latched c was), recounts, fun m reached => (gives' m).1 reached.2,
    fun m unreached => ?_, fun _ => only.latched _ latched⟩
  · rw [only.frame, told.frame]
  · have independent : ¬ x.dependsOnLock m := fun h => unreached ⟨loss, h⟩
    obtain ⟨box, live, attention⟩ := (gives' m).2 independent
    refine ⟨⟨box, live, attention⟩, fun e waits owned => ?_⟩
    rcases adds.new e (spares m (independent ∘ (depends m).mp) e waits owned) with earlier | ⟨-, -, other⟩
    · exact earlier
    · rw [other m] at owned
      cases owned

theorem endLock_roleChanged (x : State) : RoleChanged (x.ring.lock = .locked) x x.endLock := by
  unfold State.endLock
  split
  · rename_i locked
    exact (lost_roleChanged locked x.toHunt).before
  · rename_i hunting
    exact RoleChanged.of_ring (by simp [hunting]) x _
  · rename_i confirming
    exact RoleChanged.of_ring (by simp [confirming]) x _

/-- The end of the old role's lock, and the timer started anew, whatever rounds the ring port keeps. -/
theorem started_roleChanged (x : State) (emitted : List Byte) (round : Option InRound) : RoleChanged (x.ring.lock = .locked) x
    (State.endLock { x with ring := { x.ring with emitted := emitted, inRound := round } }).startTimer :=
  (endLock_roleChanged { x with ring := { x.ring with emitted := emitted, inRound := round } }).before.after _

/-- The effects of a change of the role, if there is one, on all but the ring port. -/
theorem changeRole_roleChanged (old new : RingRole) (x : State) :
    RoleChanged (old ≠ new ∧ x.ring.lock = .locked) x (x.changeRole old new) := by
  have lost (differs : old ≠ new) : (x.ring.lock = .locked) = (old ≠ new ∧ x.ring.lock = .locked) := by simp [differs]
  cases old with
  | follower =>
    cases new with
    | follower => exact RoleChanged.of_ring (by simp) x x.ring
    | master =>
      rw [← lost (by decide)]
      exact started_roleChanged x _ _
  | master =>
    cases new with
    | follower =>
      rw [← lost (by decide)]
      exact started_roleChanged x _ _
    | master => exact RoleChanged.of_ring (by simp) x _

/-! ### The ring port at a change of the role -/

/-- The ring port as the new role begins: in HUNT, nothing emitted, the timer started with the period in force
(04, R73, R74). -/
def State.begun (round : Option InRound) (n : Byte) (x : State) : RingPort := { x.ring with
  lock := .hunt, reference := none, period := none, expected := none, expectedNumber := n, misses := 0
  emitted := [], inRound := round
  timer := some { period := x.active.profile.roundPeriod, next := x.now + 16 * x.active.profile.roundPeriod } }

theorem started_ring (x : State) (round : Option InRound) :
    (State.endLock { x with ring := { x.ring with emitted := [], inRound := round } }).startTimer.ring =
      x.begun round 0 := by
  simp only [State.startTimer, endLock_ring, endLock_frame]
  rfl

theorem becomeMaster_ring (x : State) : x.becomeMaster.ring =
    x.begun (x.ring.inRound.map fun r => { r with use := .passThrough }) 0 :=
  started_ring x _

theorem becomeFollower_ring (x : State) : x.becomeFollower.ring = x.begun none 0 :=
  started_ring x none

/-! ### The swap (09, R167) -/

/-- The tests at mailbox m read its image, its runtime part, its counter, its attention bit and the frame in flight. -/
theorem tested_congr {m : Fin 32} {b : Runtime} {u y t : State} (active : y.active = u.active) (box : y.box m = u.box m)
    (flight : y.bus.flight = u.bus.flight) (live : y.live (counterB m) = u.live (counterB m))
    (attention : y.notices.attention.getLsbD m.val = u.notices.attention.getLsbD m.val) (h : State.tested m b y t) :
    State.tested m b u t := by
  simp only [State.tested, State.marksAttention, config_congr active, box, live, attention,
    hasInFlight_of_flight flight] at h ⊢
  exact h

theorem dependsOnLock_congr {m : Fin 32} {u y : State} (active : y.active = u.active) (box : y.box m = u.box m) :
    y.dependsOnLock m ↔ u.dependsOnLock m := by
  simp only [State.dependsOnLock, config_congr active, active, box]

/-- The part with the staging image installed and nothing else changed, by which a swap tests the mailboxes it gives class
LOST (04, R73, R74). -/
def State.swapped (s : State) : State := { s with active := s.staging }

section Swap

variable {c : PendingCommit} {n : Byte} {s x v : State} {lost : Prop}

theorem counterA_ne_B (m j : Fin 32) : counterA m ≠ counterB j := by
  simp only [counterA, counterB, ne_eq, Fin.mk.injEq]
  omega

theorem counterC_ne_B (m j : Fin 32) : counterC m ≠ counterB j := by
  simp only [counterC, counterB, ne_eq, Fin.mk.injEq]
  omega

theorem Installs.active (installs : Installs c n s x) : x.active = s.staging := by
  rw [installs.frame]

theorem Installs.bus (installs : Installs c n s x) : x.bus = s.bus := by
  rw [installs.frame]

theorem Installs.ring (installs : Installs c n s x) : x.ring = s.ring := by
  rw [installs.frame]

theorem RoleChanged.engine (changes : RoleChanged lost x v) : v.engine = x.engine := by
  rw [changes.frame]

theorem RoleChanged.replies (changes : RoleChanged lost x v) : v.tx.replies = x.tx.replies := by
  rw [changes.frame]

/-- All that a swap can change (09, R167). -/
theorem swap_frame (installs : Installs c n s x) (changes : RoleChanged lost x v) : v = { s with
    active := s.staging
    boxes := v.boxes
    ring := v.ring
    tx := v.tx
    engine := { s.engine with
      owner := none, idle := 0, commit := none, lastCommit := some c.tag
      hold := { s.engine.hold with valid := v.engine.hold.valid } }
    notices := { v.notices with enabled := s.notices.enabled, sequence := s.notices.sequence }
    counters := { s.counters with live := v.counters.live, interval := v.counters.interval } } := by
  rw [changes.frame, installs.frame]

/-- COMMIT's reply stands in its entry, and no other reply entry changes (09, R167). -/
theorem swap_replies (installs : Installs c n s x) (changes : RoleChanged lost x v) :
    v.reply c.entry = { status := .queued, content := c.done n } ∧ ∀ k, k ≠ c.entry → v.reply k = s.reply k := by
  refine ⟨?_, fun k other => ?_⟩
  · simp [State.reply, changes.replies, installs.replies]
  · have apart : c.entry.val ≠ k.val := fun same => other (Fin.ext same.symm)
    simp [State.reply, changes.replies, installs.replies, apart]

/-- A mailbox that the swap finds changed stays reset: class NONE keeps it from class LOST (09, R168; 04, R71). -/
theorem swap_changed (installs : Installs c n s x) (changes : RoleChanged lost x v) {m : Fin 32}
    (changed : s.active.changes s.staging m) : IsReset m s v := by
  have reset := installs.changed m changed
  have independent : ¬ x.dependsOnLock m := fun ⟨_, _, classed, _⟩ => classed (by rw [reset.box]; rfl)
  obtain ⟨same, queued⟩ := changes.spared m fun h => independent h.2
  refine ⟨same.box.trans reset.box, (changes.live _ (counterA_ne_B m)).trans reset.a, same.live.trans reset.b,
    (changes.live _ (counterC_ne_B m)).trans reset.c, same.attention.trans reset.attention, fun e waits => ?_, fun held => ?_⟩
  · by_contra owned
    rw [Bool.not_eq_false] at owned
    exact absurd (reset.queued e (queued e waits owned)) (by simp [owned])
  · rw [changes.engine]
    exact reset.hold held

/-- What a swap leaves alone at a mailbox that it finds unchanged. -/
theorem swap_unchanged (installs : Installs c n s x) (changes : RoleChanged lost x v) {m : Fin 32}
    (same : ¬ s.active.changes s.staging m) :
    v.live (counterA m) = s.live (counterA m) ∧ v.live (counterC m) = s.live (counterC m) ∧
      (∀ e ∈ s.tx.queued, e.owner.isReportOf m = true → e ∈ v.tx.queued) ∧
      (s.engine.hold.mailbox = m → v.engine.hold.valid = s.engine.hold.valid) := by
  have kept := installs.kept m same
  exact ⟨(changes.live _ (counterA_ne_B m)).trans kept.a, (changes.live _ (counterC_ne_B m)).trans kept.c,
    fun e waits owned => changes.recounts.queued e (kept.queued e waits owned),
    fun held => by rw [changes.engine]; exact kept.hold held⟩

/-- Class LOST at a mailbox that the swap finds unchanged (04, R71, R73, R74). -/
theorem swap_classLost (installs : Installs c n s x) (changes : RoleChanged lost x v) {m : Fin 32}
    (same : ¬ s.active.changes s.staging m) :
    (lost ∧ s.swapped.dependsOnLock m → State.tested m { s.box m with classSeen := .lost } s.swapped v) ∧
      (¬ (lost ∧ s.swapped.dependsOnLock m) → SameAt m s v) := by
  have kept := installs.kept m same
  have depends : x.dependsOnLock m ↔ s.swapped.dependsOnLock m := dependsOnLock_congr installs.active kept.box
  rw [← depends]
  refine ⟨fun reached => ?_, fun unreached => ?_⟩
  · have tested := changes.reached m reached
    rw [kept.box] at tested
    exact tested_congr installs.active kept.box (congrArg BusPort.flight installs.bus) kept.b kept.attention tested
  · obtain ⟨⟨box, live, attention⟩, -⟩ := changes.spared m unreached
    exact ⟨box.trans kept.box, live.trans kept.b, attention.trans kept.attention⟩

/-- The repeat count after a swap (09, R169; 10, R178). -/
theorem swap_repeats (installs : Installs c n s x) (changes : RoleChanged lost x v) :
    v.notices.repeatCount =
        (if s.active.profile.noticeRepeat = s.staging.profile.noticeRepeat then s.notices.repeatCount else 0) ∨
      (v.notices.repeatCount = 0 ∧ v.hasQueued Owner.isNotice = true) := by
  rcases changes.recounts.count with left | zero
  · rw [left]
    exact installs.repeats.imp_right fun ⟨zero, notice⟩ => ⟨zero, hasQueued_mono changes.recounts.queued notice⟩
  · exact .inr zero

end Swap

/-- The ring port after a swap, by the roles before and after (04, R72 to R74; 03, R47, R53). -/
def State.ringFor (old new : RingRole) (s : State) : RingPort :=
  match old, new with
  | .follower, .follower => s.ring
  | .master, .master => { s.ring with inRound := none }
  | .follower, .master => s.swapped.begun (s.ring.inRound.map fun r => { r with use := .passThrough }) 0
  | .master, .follower => s.swapped.begun none 0

theorem Installs.changeRole_ring {c : PendingCommit} {n : Byte} {s x : State} (installs : Installs c n s x)
    (old new : RingRole) : (x.changeRole old new).ring = s.ringFor old new := by
  have begun (round : Option InRound) (n : Byte) : x.begun round n = s.swapped.begun round n := by
    rw [installs.frame]
    rfl
  cases old with
  | follower =>
    cases new with
    | follower => exact installs.ring
    | master => rw [State.ringFor, ← begun, ← installs.ring, ← becomeMaster_ring, State.changeRole]
  | master =>
    cases new with
    | follower => rw [State.ringFor, ← begun, ← becomeFollower_ring, State.changeRole]
    | master => rw [State.ringFor, ← installs.ring, State.changeRole]

/-- The row SWAP takes the pending commit, and the boundary goes on (04, R70; 09, R167). -/
theorem exec_swap {b : Boundary} {c : PendingCommit} {s : State} (waits : s.boundary = some b) (due : b.due = .swap)
    (pending : s.engine.commit = some c) : exec .swap s =
      .next ((State.swapCommit c b.number { s with boundary := none }).continueBoundary b.number b.cause b.rest) := by
  have performed : State.performDue .swap b.number { s with boundary := none } =
      State.swapCommit c b.number { s with boundary := none } := by
    simp only [State.performDue, State.swapPending, pending]
  have executed := exec_due waits
  rw [State.takeDue, due, performed] at executed
  exact executed

/-- Settles O31: the swap up to the change of the role, the change of the role, and the boundary that goes on from there. -/
theorem swapInstallsTheStagingImage : Obligations.SwapInstallsTheStagingImage := by
  intro b c s waits due pending old new swapped begun
  have executed := exec_swap waits due pending
  rw [swapCommit_eq] at executed
  have installs := installed_installs c b.number { s with boundary := none }
  generalize State.installed c b.number { s with boundary := none } = x at installs executed
  have changes := changeRole_roleChanged old.role new.role x
  have ring : (x.changeRole old.role new.role).ring = s.ringFor old.role new.role := installs.changeRole_ring _ _
  rw [installs.ring] at changes
  change exec .swap s = .next ((x.changeRole old.role new.role).continueBoundary b.number b.cause b.rest) at executed
  generalize x.changeRole old.role new.role = v at changes ring executed
  have frame := swap_frame installs changes
  obtain ⟨reply, replies⟩ := swap_replies installs changes
  obtain ⟨e, waiting, placed⟩ := installs.placed
  have repeats := swap_repeats installs changes
  refine ⟨v, _, executed, continueBoundary_runs _ _ _ v, ?_, ?_, ?_, frame, reply, replies,
    ⟨e, changes.recounts.queued e waiting, placed⟩, changes.latched _ installs.latched, fun m changed => ?_, fun m same => ?_,
    fun k whole => (changes.live k (ne_counterB whole)).trans (installs.live k whole), ?_, fun differs => ?_, fun same => ?_,
    fun differs locked => changes.told ⟨differs, locked⟩, fun before after => ?_, fun before after => ?_,
    fun before after => ?_, fun before after => ?_⟩
  · simp only [continueBoundary_frame]
    rw [frame]
  · simp only [continueBoundary_frame]
    rw [frame]
  · simp only [continueBoundary_frame]
    rw [frame]
  · obtain ⟨box, a, b, c, attention, queued, hold⟩ := swap_changed installs changes changed
    exact ⟨box, a, b, c, attention, queued, hold⟩
  · obtain ⟨a, c, queued, hold⟩ := swap_unchanged installs changes same
    obtain ⟨reached, unreached⟩ := swap_classLost installs changes same
    refine ⟨a, c, queued, hold, fun ⟨differs, locked, depends⟩ => ?_, fun spared => ?_⟩
    · exact tested_congr rfl rfl rfl rfl rfl (reached ⟨⟨differs, locked⟩, depends⟩)
    · obtain ⟨box, live, attention⟩ := unreached fun ⟨⟨differs, locked⟩, depends⟩ => spared ⟨differs, locked, depends⟩
      exact ⟨box, live, attention⟩
  · rw [changes.frame]
    exact installs.interval
  · rw [if_neg differs] at repeats
    exact repeats.elim id And.left
  · rwa [if_pos same] at repeats
  · rw [ring, before, after]
    rfl
  · rw [ring, before, after]
    rfl
  · rw [ring, before, after]
    rfl
  · rw [ring, before, after]
    rfl

end Sys2Proof.Machine
end

section
/-! A condition event or an offer, and a reply of the same event (06, R98; 10, R176). An action makes its offer before its
reply is placed, and the reply ranks before the notice: the part is the same as if the reply had been placed first. -/

namespace Sys2Proof.Machine

/-- Two entries of different stamps can join the queue in either order (06, R98). -/
theorem insertEntry_comm {a b : Entry} (before : a.stamp < b.stamp) (l : List Entry) :
    insertEntry a (insertEntry b l) = insertEntry b (insertEntry a l) := by
  induction l with
  | nil => simp [insertEntry, before, Nat.lt_asymm before]
  | cons x l ih =>
    by_cases second : b.stamp < x.stamp
    · have first := before.trans second
      simp [insertEntry, before, first, second, Nat.lt_asymm before]
    · by_cases first : a.stamp < x.stamp
      · simp [insertEntry, first, second, Nat.lt_asymm before]
      · simp [insertEntry, first, second, ih]

theorem rank_reply_lt_notice (k : Fin 4) (n m : Nat) : (Owner.reply k).rank n < Owner.notice.rank m := by
  simp only [Owner.rank]
  omega

/-- The reply of an event stands before its notice, whichever is placed first (06, R98). -/
theorem place_notice_placeReply (k : Fin 4) (c : Reply) (x : State) :
    (x.place .notice).placeReply k c = (x.placeReply k c).place .notice := by
  have queued := insertEntry_comm
    (a := { owner := .reply k, stamp := x.tx.epoch * 64 + (Owner.reply k).rank x.tx.placed, attempts := 0 })
    (b := { owner := .notice, stamp := x.tx.epoch * 64 + Owner.notice.rank x.tx.placed, attempts := 0 })
    (Nat.add_lt_add_left (rank_reply_lt_notice k _ _) _) x.tx.queued
  exact congrArg (fun q => { x.placeReply k c with tx := { (x.placeReply k c).tx with queued := q } }) queued

theorem placeReply_hasQueued_notice (k : Fin 4) (c : Reply) (x : State) :
    (x.placeReply k c).hasQueued Owner.isNotice = x.hasQueued Owner.isNotice := by
  rw [Bool.eq_iff_iff]
  simp [State.hasQueued, State.placeReply, State.setReply, place_queued, mem_insertEntry, Owner.isNotice]

/-- An offer and a reply of one event (10, R176). -/
theorem offer_placeReply (k : Fin 4) (c : Reply) (x : State) :
    x.offer.placeReply k c = (x.placeReply k c).offer := by
  have flying : (x.placeReply k c).hasInFlight Owner.isNotice = x.hasInFlight Owner.isNotice := rfl
  unfold State.offer
  rw [flying, placeReply_hasQueued_notice]
  split
  · rfl
  · split
    · rfl
    · exact congrArg (fun y : State => { y with notices := { y.notices with repeatCount := 0 } })
        (place_notice_placeReply k c x)

theorem offerIf_placeReply (makes : Prop) [Decidable makes] (k : Fin 4) (c : Reply) (x : State) :
    (x.offerIf makes).placeReply k c = (x.placeReply k c).offerIf makes := by
  unfold State.offerIf
  split
  · exact offer_placeReply k c x
  · rfl

/-- A condition event and a reply of one event (10, R174). -/
theorem latch_placeReply (condition : Condition) (k : Fin 4) (c : Reply) (x : State) :
    (x.latch condition).placeReply k c = (x.placeReply k c).latch condition := by
  have notices : (x.placeReply k c).notices = x.notices := rfl
  unfold State.latch
  rw [notices]
  split
  · rfl
  · dsimp only
    split
    · exact offer_placeReply k c _
    · rfl

/-! ### The reply as the event's first placement -/

/-- The reply takes the entry that was reserved for it (08, R128, R129). -/
theorem placeReply_reserved_replies {u x : State} {rest : List Request} {k : Fin 4} (c : Reply)
    (reserved : x.tx.replies = (u.reserving rest k).tx.replies) :
    (x.placeReply k c).tx.replies = u.tx.replies.set k { status := .queued, content := c } := by
  rw [placeReply_replies, reserved]
  exact Vector.set_set _ k.isLt

section

variable {u x : State} (law : u.queueLaw) (queued : x.tx.queued = u.tx.queued) (epoch : x.tx.epoch = u.tx.epoch + 1)
include law queued epoch

/-- What was queued before an event stands before all that the event places (06, R98). -/
theorem begun_stamps : ∀ e ∈ x.tx.queued, e.stamp < x.tx.epoch * 64 := by
  obtain ⟨waiting, -, -⟩ := law
  rw [queued, epoch]
  exact fun e member => Nat.mul_comm 64 _ ▸ waiting e member

theorem placeReply_placedInOrder (k : Fin 4) (c : Reply) : u.placedInOrder [.reply k] (x.placeReply k c) :=
  placedInOrder_one (v := x.setReply k { status := .queued, content := c }) queued
    (queued ▸ begun_stamps law queued epoch)

/-- A notice of the event stands behind its reply (06, R98). -/
theorem placeReply_stamps (k : Fin 4) (c : Reply) :
    ∀ e ∈ (x.placeReply k c).tx.queued, e.stamp < (x.placeReply k c).tx.epoch * 64 + 40 := by
  intro e member
  have same : (x.placeReply k c).tx.epoch = x.tx.epoch := rfl
  rw [same]
  rcases mem_insertEntry.mp member with rfl | waiting
  · exact Nat.add_lt_add_left (rank_reply_lt_notice k _ 0) _
  · exact Nat.lt_add_right 40 (begun_stamps law queued epoch e waiting)

variable (flight : x.bus.flight = u.bus.flight)
include flight

/-- An offer of an event that has placed a reply (10, R176). -/
theorem placeReply_offered (deferred : x.notices.deferred = u.notices.deferred)
    (repeats : x.notices.repeatCount = u.notices.repeatCount) (k : Fin 4) (c : Reply) (makes : Prop) [Decidable makes] :
    u.offered [.reply k] makes ((x.placeReply k c).offerIf makes) := by
  have placed := placeReply_placedInOrder law queued epoch k c
  unfold State.offerIf
  split
  case isTrue made =>
    exact offered_offer made placed (by simp [Owner.isNotice]) (hasInFlight_of_flight flight _)
      (fun _ => placeReply_stamps law queued epoch k c) deferred repeats
  case isFalse unmade => exact offered_none unmade placed deferred repeats

/-- A condition event of an event that has placed a reply (10, R174, R176). -/
theorem placeReply_conditionEvent (notices : x.notices = u.notices) (k : Fin 4) (c : Reply) (condition : Condition) :
    u.conditionEvent [.reply k] condition True ((x.placeReply k c).latch condition) := by
  have kept : (x.placeReply k c).notices = u.notices := notices
  exact conditionEvent_latch trivial (placeReply_placedInOrder law queued epoch k c) (by simp [Owner.isNotice])
    (hasInFlight_of_flight flight _) (fun _ => placeReply_stamps law queued epoch k c) (by rw [kept])

end

end Sys2Proof.Machine
end

section
/-! The requests of the notice unit, the attention set and the counters (10, R179 to R183, R187), and the two that only
answer (08, R130, R145). -/

namespace Sys2Proof.Machine

/-! ### RESUME_BUS, unknown codes and READ_NOTICES (08, R130, R145; 10, R179) -/

/-- Settles O34: none of the three actions changes anything. -/
theorem plainRequestsOnlyAnswer : Obligations.PlainRequestsOnlyAnswer := by
  intro r rest s u law
  refine ⟨fun taken => ?_, fun taken => ?_, fun taken => ?_⟩
  · exact (exec_only_answers (row := .resumeBus) rfl taken law (free_of_takes taken nofun nofun nofun nofun)
      (fun _ => rfl)).elim fun _ answered => answered
  · exact (exec_only_answers (row := .unknownRequest) rfl taken law (free_of_takes taken nofun nofun nofun nofun)
      (fun _ => rfl)).elim fun _ answered => answered
  · exact (exec_only_answers (row := .readNotices) rfl taken law (free_of_takes taken nofun nofun nofun nofun)
      (fun _ => rfl)).elim fun _ answered => answered

/-! ### ACK_NOTICES and READ_ATTENTION (10, R180, R183) -/

/-- The conditions a request names in its bytes 2 and 3 (10, R180, R181). -/
def Request.conditions (r : Request) : ConditionSet := conditionsOf (r.byte 2) (r.byte 3)

/-- The part with its notice unit as given. -/
def State.withNotices (n : NoticeUnit) (x : State) : State := { x with notices := n }

/-- All that an answered change of the notice unit changes. -/
theorem withNotices_placeReply (rest : List Request) (k : Fin 4) (c : Reply) (n : NoticeUnit) (u : State) :
    ((u.reserving rest k).withNotices n).placeReply k c = { u with
      tx := (((u.reserving rest k).withNotices n).placeReply k c).tx
      engine := { u.engine with requests := rest }
      notices := n
      counters := (u.count 107).counters } := by
  rw [placeReply_eq, State.withNotices, reserving_eq]
  rfl

theorem answerAckNotices_malformed {r : Request} (malformed : r.data.length < 4 ∨ 31 < (r.byte 3).toNat) (x : State) :
    answerAckNotices r x = x.refuse .badValue := by
  unfold answerAckNotices
  split
  · rfl
  · rename_i long
    exact if_pos (malformed.resolve_left long)

theorem answerAckNotices_clears {r : Request} (long : 4 ≤ r.data.length) (mask : (r.byte 3).toNat ≤ 31) (x : State) :
    answerAckNotices r x =
      (x.withNotices { x.notices with latched := x.notices.latched &&& ~~~ r.conditions }).okay
        (conditionBytes (x.notices.latched &&& ~~~ r.conditions)) := by
  rw [answerAckNotices, if_neg (Nat.not_lt.mpr long), if_neg (Nat.not_lt.mpr mask)]
  rfl

theorem answerReadAttention_eq (r : Request) (x : State) : answerReadAttention r x =
    (x.withNotices { x.notices with attention := 0 }).okay (attentionBytes x.notices.attention) := rfl

/-- Settles O51: ACK_NOTICES by its two tests, and the attention set returned and cleared. -/
theorem ackAndReadAttentionClear : Obligations.AckAndReadAttentionClear := by
  constructor
  · intro r rest s u left taken law
    obtain ⟨k, free⟩ := free_of_takes taken nofun nofun nofun nofun
    refine ⟨_, exec_answered (row := .ackNotices) rfl taken free, fun malformed => ?_, fun long mask => ?_⟩
    · rw [answerAckNotices_malformed malformed]
      exact ⟨replied_of_answer (a := (u.reserving rest k).refuse .badValue) law free rfl,
        onlyAnswers_placeReply rest k _ u⟩
    · rw [answerAckNotices_clears long mask]
      exact ⟨replied_of_answer law free
          (a := ((u.reserving rest k).withNotices { u.notices with latched := left }).okay (conditionBytes left)) rfl,
        withNotices_placeReply rest k _ { u.notices with latched := left } u⟩
  · intro r rest s u taken law
    obtain ⟨k, free⟩ := free_of_takes taken nofun nofun nofun nofun
    refine ⟨_, exec_answered (row := .readAttention) rfl taken free, ?_⟩
    rw [answerReadAttention_eq]
    exact ⟨replied_of_answer law free
        (a := ((u.reserving rest k).withNotices { u.notices with attention := 0 }).okay
          (attentionBytes u.notices.attention)) rfl,
      withNotices_placeReply rest k _ { u.notices with attention := 0 } u⟩

/-! ### SET_NOTICE_ENABLE (10, R181) -/

/-- A latched condition becomes enabled by the new set (10, R181). -/
abbrev State.newlyEnables (v : ConditionSet) (x : State) : Prop := v &&& ~~~ x.notices.enabled &&& x.notices.latched ≠ 0

theorem answerSetNoticeEnable_malformed {r : Request} (malformed : r.data.length < 4 ∨ 31 < (r.byte 3).toNat)
    (x : State) : answerSetNoticeEnable r x = x.refuse .badValue := by
  unfold answerSetNoticeEnable
  split
  · rfl
  · rename_i long
    exact if_pos (malformed.resolve_left long)

theorem answerSetNoticeEnable_sets {r : Request} (long : 4 ≤ r.data.length) (mask : (r.byte 3).toNat ≤ 31) (x : State) :
    answerSetNoticeEnable r x =
      ((x.withNotices { x.notices with enabled := r.conditions }).offerIf (x.newlyEnables r.conditions)).okay [] := by
  rw [answerSetNoticeEnable, if_neg (Nat.not_lt.mpr long), if_neg (Nat.not_lt.mpr mask), State.offerIf]
  by_cases offers : x.newlyEnables r.conditions
  · rw [if_pos offers]
    exact if_neg offers
  · rw [if_neg offers]
    exact if_pos (not_not.mp offers)

/-- The enable set replaced and the reply placed, before the offer. -/
def State.enabledReply (rest : List Request) (k : Fin 4) (c : Reply) (v : ConditionSet) (u : State) : State :=
  ((u.reserving rest k).withNotices { u.notices with enabled := v }).placeReply k c

theorem enabledReply_eq (rest : List Request) (k : Fin 4) (c : Reply) (v : ConditionSet) (u : State) :
    u.enabledReply rest k c v = { u with
      tx := (u.enabledReply rest k c v).tx
      engine := { u.engine with requests := rest }
      notices := { u.notices with enabled := v }
      counters := (u.count 107).counters } :=
  withNotices_placeReply rest k c { u.notices with enabled := v } u

/-- An offer adds to the queue, and to the repeat count and the deferred flag of the notice unit. -/
theorem enabledReply_offerIf_eq (rest : List Request) (k : Fin 4) (c : Reply) (v : ConditionSet) (u : State)
    (makes : Prop) [Decidable makes] : (u.enabledReply rest k c v).offerIf makes = { u with
      tx := ((u.enabledReply rest k c v).offerIf makes).tx
      engine := { u.engine with requests := rest }
      notices := { u.notices with
        enabled := v
        repeatCount := ((u.enabledReply rest k c v).offerIf makes).notices.repeatCount
        deferred := ((u.enabledReply rest k c v).offerIf makes).notices.deferred }
      counters := (u.count 107).counters } := by
  have frame := offerIf_eq makes (u.enabledReply rest k c v)
  generalize (u.enabledReply rest k c v).offerIf makes = t at frame ⊢
  rw [frame, enabledReply_eq]

theorem enabledReply_offerIf_replies (rest : List Request) (k : Fin 4) (c : Reply) (v : ConditionSet) (u : State)
    (makes : Prop) [Decidable makes] : ((u.enabledReply rest k c v).offerIf makes).tx.replies =
      u.tx.replies.set k { status := .queued, content := c } := by
  rw [offerIf_eq]
  exact placeReply_reserved_replies (rest := rest) c rfl

theorem enabledReply_offered {u : State} (law : u.queueLaw) (rest : List Request) (k : Fin 4) (c : Reply)
    (v : ConditionSet) (makes : Prop) [Decidable makes] :
    u.offered [.reply k] makes ((u.enabledReply rest k c v).offerIf makes) :=
  placeReply_offered (x := (u.reserving rest k).withNotices { u.notices with enabled := v }) law rfl rfl rfl rfl rfl k c
    makes

/-- Settles O52: the two tests; then the set replaced, the reply placed, and an offer made or not. -/
theorem setNoticeEnableReplacesTheSet : Obligations.SetNoticeEnableReplacesTheSet := by
  intro r rest s u new offers taken
  obtain ⟨k, free⟩ := free_of_takes taken nofun nofun nofun nofun
  refine ⟨_, exec_answered (row := .setNoticeEnable) rfl taken free, fun malformed law => ?_, fun long mask => ?_⟩
  · rw [answerSetNoticeEnable_malformed malformed]
    exact ⟨replied_of_answer (a := (u.reserving rest k).refuse .badValue) law free rfl,
      onlyAnswers_placeReply rest k _ u⟩
  · obtain ⟨isFree, lowest⟩ := freeReply_status free
    rw [answerSetNoticeEnable_sets long mask]
    dsimp only [State.okay]
    rw [offerIf_placeReply]
    exact ⟨enabledReply_offerIf_eq rest k _ new u offers, k, isFree, lowest,
      enabledReply_offerIf_replies rest k _ new u offers, fun law => enabledReply_offered law rest k _ new offers⟩

/-! ### SNAPSHOT (10, R185, R187) -/

/-- The counter bank after a snapshot of the bank as it stands (10, R185). -/
def CounterBank.snapshot (c : CounterBank) : CounterBank :=
  { live := Vector.replicate 111 0, snap := c.live, sequence := c.sequence + 1, interval := 0 }

/-- The part with a snapshot taken of its counters, before the condition event. -/
def State.snapped (x : State) : State := { x with counters := x.counters.snapshot }

theorem takeSnapshot_snapped (x : State) : x.takeSnapshot = x.snapped.latch .snapshotReady := rfl

theorem answerSnapshot_eq (r : Request) (x : State) : answerSnapshot r x = x.takeSnapshot.okay
    [((x.counters.sequence + 1) >>> 8).setWidth 8, (x.counters.sequence + 1).setWidth 8] := by
  have sequence : x.takeSnapshot.counters.sequence = x.counters.sequence + 1 := by rw [takeSnapshot_eq]
  rw [answerSnapshot, sequence, bytesOf_toNat]

/-- All but the queue, the reply entries and the notice unit of a part that has taken a SNAPSHOT. -/
def State.snapshotTaken (rest : List Request) (u v : State) : Prop :=
  v = { u with
    tx := v.tx
    engine := { u.engine with requests := rest }
    counters := (u.count 107).counters.snapshot }

/-- The condition event adds to the queue and the notice unit alone. -/
theorem State.snapshotTaken.latch_eq {rest : List Request} {u v : State} (taken : State.snapshotTaken rest u v)
    (c : Condition) : v.latch c = { u with
      tx := (v.latch c).tx
      engine := { u.engine with requests := rest }
      notices := { u.notices with
        latched := (v.latch c).notices.latched
        repeatCount := (v.latch c).notices.repeatCount
        deferred := (v.latch c).notices.deferred }
      counters := (u.count 107).counters.snapshot } := by
  have told := (latch_tells c v).frame
  generalize v.latch c = t at told ⊢
  unfold State.snapshotTaken at taken
  rw [told, taken]

/-- The reply to a node-addressed SNAPSHOT placed, before the condition event. -/
def State.snappedReply (rest : List Request) (k : Fin 4) (c : Reply) (u : State) : State :=
  (u.reserving rest k).snapped.placeReply k c

theorem snappedReply_taken (rest : List Request) (k : Fin 4) (c : Reply) (u : State) :
    State.snapshotTaken rest u (u.snappedReply rest k c) := by
  rw [State.snapshotTaken, State.snappedReply, placeReply_eq, State.snapped, reserving_eq]
  rfl

theorem snappedReply_conditionEvent {u : State} (law : u.queueLaw) (rest : List Request) (k : Fin 4) (c : Reply) :
    u.conditionEvent [.reply k] .snapshotReady True ((u.snappedReply rest k c).latch .snapshotReady) :=
  placeReply_conditionEvent (x := (u.reserving rest k).snapped) law rfl rfl rfl rfl k c .snapshotReady

theorem snappedReply_replies (rest : List Request) (k : Fin 4) (c : Reply) (u : State) :
    ((u.snappedReply rest k c).latch .snapshotReady).tx.replies =
      u.tx.replies.set k { status := .queued, content := c } := by
  rw [latch_replies]
  exact placeReply_reserved_replies (rest := rest) c rfl

theorem snapped_taken (rest : List Request) (u : State) : State.snapshotTaken rest u (u.dequeue rest).snapped := rfl

theorem snapped_conditionEvent {u : State} (law : u.queueLaw) (rest : List Request) :
    u.conditionEvent [] .snapshotReady True ((u.dequeue rest).snapped.latch .snapshotReady) :=
  conditionEvent_latch trivial ((placedInOrder_nil _ _).mpr rfl) nofun rfl
    (fun _ e waiting => Nat.lt_add_right 40 (begun_stamps (x := (u.dequeue rest).snapped) law rfl rfl e waiting)) rfl

section

variable {r : Request} {rest : List Request} {s : State} (taken : s.finish.takes .snapshot r rest)
include taken

/-- The take of a broadcast SNAPSHOT (10, R187). -/
theorem exec_snapshot_broadcast (broadcast : r.broadcast = true) :
    exec .snapshot s = .next ((s.finish.dequeue rest).snapped.latch .snapshotReady) := by
  have executed : exec .snapshot s = .next (actSnapshot r (s.finish.dequeue rest)) := exec_take (row := .snapshot) taken
  rwa [actSnapshot, if_pos broadcast, takeSnapshot_snapped] at executed

/-- The take of a node-addressed SNAPSHOT, its reply placed before its condition event (10, R187). -/
theorem exec_snapshot_node (addressed : r.broadcast = false) {k : Fin 4} (free : s.finish.freeReply = some k) :
    exec .snapshot s = .next ((s.finish.snappedReply rest k (r.echo .ok
      [((s.finish.counters.sequence + 1) >>> 8).setWidth 8, (s.finish.counters.sequence + 1).setWidth 8])).latch
        .snapshotReady) := by
  have executed : exec .snapshot s = .next (actSnapshot r (s.finish.dequeue rest)) := exec_take (row := .snapshot) taken
  rw [actSnapshot, if_neg (Bool.eq_false_iff.mp addressed), answered_eq free, answerSnapshot_eq, takeSnapshot_snapped]
    at executed
  rw [executed, State.snappedReply, ← latch_placeReply]
  rfl

end

/-- Settles O50: the broadcast take, then the node-addressed one. -/
theorem snapshotCopiesTheBank : Obligations.SnapshotCopiesTheBank := by
  intro r rest s u taken law
  cases addressing : r.broadcast with
  | true =>
    exact ⟨_, exec_snapshot_broadcast taken addressing, (snapped_taken rest u).latch_eq _,
      fun _ => ⟨latch_replies _ _, snapped_conditionEvent law rest⟩, nofun⟩
  | false =>
    obtain ⟨waiting, -, canTake⟩ := id taken
    obtain ⟨k, free⟩ := freeReply_of_canTake canTake waiting addressing
    obtain ⟨isFree, lowest⟩ := freeReply_status free
    exact ⟨_, exec_snapshot_node taken addressing free, (snappedReply_taken rest k _ u).latch_eq _, nofun,
      fun _ => ⟨k, isFree, lowest, snappedReply_replies rest k _ u, snappedReply_conditionEvent law rest k _⟩⟩

end Sys2Proof.Machine
end

section
/-! The values after a reset (11, R189), and the two rows that set them: the release of NRESET and power-on (07, R111, R124;
08, R148; logs 9, 25 and 32). A held part takes no internal step, so the release finds its bus output as it stood. -/

namespace Sys2Proof.Machine

/-! ### The values of State.reset, block by block -/

theorem reset_box (m : Fin 32) : State.reset.box m = Runtime.reset := by
  simp [State.box, State.reset]

theorem reset_config (m : Fin 32) : State.reset.config m = MailboxConfig.default := by
  simp [State.config, State.reset, Image.default]

theorem reset_slots (n : Fin 64) : State.reset.active.slots[n] = { role := .pass, mailbox := 0 } := by
  simp [State.reset, Image.default]

theorem reset_reply (k : Fin 4) : State.reset.reply k = ReplyEntry.blank := by
  simp [State.reply, State.reset, TransmitQueue.reset]

theorem reset_live (k : Fin 111) : State.reset.live k = 0 := by
  simp [State.live, State.reset, CounterBank.reset]

theorem reset_snap (k : Fin 111) : State.reset.counters.snap[k] = 0 := by
  simp [State.reset, CounterBank.reset]

/-- RESTARTED is condition 11 (10, R174), so the set that holds it alone is 0x800. -/
theorem isIn_restarted_alone (c : Condition) : c.isIn 0x800 = decide (c = .restarted) := by
  cases c <;> decide

/-- Settles O3: what is said of every mailbox, entry, counter and condition by its lemma, each single register by its
definition. -/
theorem resetState : Obligations.ResetState := by
  have ring : State.reset.ring = RingPort.reset 0 := rfl
  have bus : State.reset.bus = BusPort.reset := rfl
  have engine : State.reset.engine = Engine.reset := rfl
  have notices : State.reset.notices = NoticeUnit.reset := rfl
  have replies (k : Fin 4) : (State.reset.reply k).status = .free := by rw [reset_reply]; rfl
  unfold Obligations.ResetState
  rw [ring, bus, engine, notices]
  exact ⟨rfl, rfl, rfl, rfl, rfl, rfl, rfl, rfl, rfl, rfl, reset_box, reset_config, reset_slots, rfl, rfl, rfl, replies,
    rfl, rfl, rfl, rfl, rfl, rfl, rfl, rfl, rfl, rfl, rfl, rfl, rfl, isIn_restarted_alone, isIn_restarted_alone,
    rfl, rfl, rfl, rfl, reset_live, reset_snap, rfl, rfl⟩

/-! ### A held part takes no internal step (07, R124; log 16) -/

theorem canSelect_held {s : State} (held : s.held = true) : s.canSelect = false := by
  simp [State.canSelect, held]

theorem canTake_held {s : State} (held : s.held = true) : s.canTake = false := by
  simp [State.canTake, held]

theorem settle_held {s : State} (held : s.held = true) : s.settle = s.finish := by
  have finished : s.finish.held = true := by simpa using held
  simp [State.settle, State.settleBy, canSelect_held finished, canTake_held finished]

theorem ripe_of_held {s : State} (held : s.held = true) (t : Nat) : s.ripe t = s.finish := by
  unfold State.ripe
  rw [settle_held held, ite_self]

/-- Nothing goes out on BTX before an event that finds the part held. -/
theorem found_btx_held {t : Nat} {s : State} (held : (s.found t).held = true) : (s.found t).btx = s.btx := by
  have asserted : s.held = true := by simpa [ripe_held] using held
  simp [ripe_of_held asserted]

theorem found_pending (t : Nat) (s : State) : (s.found t).pending = s.pending := by
  simp [ripe_pending]

theorem finish_serial (s : State) : s.finish.engine.serial = s.engine.serial :=
  (serial_kept s.engine.serial).finish s rfl

theorem found_serial (t : Nat) (s : State) : (s.found t).engine.serial = s.engine.serial :=
  (serial_kept s.engine.serial).found t s rfl

/-! ### The release of NRESET (11, R189) -/

theorem exec_nresetRelease {time : Nat} {s : State} (ht : s.inTime (16 * time))
    (held : (s.found (16 * time)).held = true) (straps : Straps) :
    exec (.nresetRelease time straps) s = .next ((s.found (16 * time)).releaseReset straps) := by
  have occurs : (s.ripe (16 * time)).held = true := by simpa using held
  exact congrArg _ (atTime_of_occurs ht occurs)

/-- The whole of a release: the blocks by their reset values, and what it does not set. -/
theorem releaseReset_eq (straps : Straps) (u : State) : u.releaseReset straps = { State.reset with
    now := u.now
    windowClosed := u.windowClosed
    ring := { State.reset.ring with timer := some { period := 1000, next := u.now + 16000 } }
    bus := { State.reset.bus with rate := BitRate.ofStraps straps, unheard := u.bus.unheard }
    engine := { State.reset.engine with serial := u.engine.serial }
    rout := u.rout
    btx := u.btx
    pending := u.pending } := rfl

/-! ### Power-on (11, R189; log 25) -/

theorem exec_powerOn {time : Nat} {s : State} (ordered : s.now ≤ 16 * time) (straps : Straps) (busy : Bool) :
    exec (.powerOn time straps busy) s =
      .next (State.applyPower straps busy s.held { s.finish.assertReset with now := 16 * time }) :=
  congrArg _ (if_pos ordered)

/-- The whole of power applied: an asserted NRESET keeps the part held and its timer stopped. -/
theorem applyPower_eq (straps : Straps) (busy asserted : Bool) (u : State) :
    u.applyPower straps busy asserted = { State.reset with
      now := u.now
      windowClosed := u.windowClosed
      held := asserted
      ring := { State.reset.ring with
        timer := if asserted = true then none else some { period := 1000, next := u.now + 16000 } }
      bus := { State.reset.bus with rate := BitRate.ofStraps straps, unheard := busy }
      engine := { State.reset.engine with serial := u.engine.serial }
      rout := u.rout
      btx := u.btx
      pending := u.pending } := by
  cases asserted with
  | true => rfl
  | false => rfl

/-- Settles O5: the release of a held part with the four strap settings, then power-on as a loss of power at the last
event followed by a release. -/
theorem releaseResetsEveryBlock : Obligations.ReleaseResetsEveryBlock := by
  intro time straps s
  refine ⟨?_, ?_⟩
  · intro ht u held
    have now : u.now = 16 * time := by simp [u]
    refine ⟨u.releaseReset straps, exec_nresetRelease ht held straps, ?_, ?_, ?_, ?_, ?_⟩
    · rw [releaseReset_eq, now, found_serial, found_btx_held held, found_pending]
    all_goals
      rintro rfl
      rfl
  · intro busy ordered u
    have held : u.held = s.held := by simp [u]
    have pending : u.pending = s.pending := by simp [u]
    rw [exec_powerOn ordered, applyPower_eq, assertReset_eq, finish_serial, held, pending]

end Sys2Proof.Machine
end

section
/-! The step by the queue of commands (log 13): the front command is executed, and the empty queue idles. -/

namespace Sys2Proof.Machine

theorem step_of_front {c : Instr} {rest : List Instr} {s : State} (front : s.pending = c :: rest) :
    step s = exec c (s.popped rest) := by
  unfold step
  rw [front]

theorem step_of_empty {s : State} (empty : s.pending = []) : step s = .next s := by
  unfold step
  rw [empty]

/-- Settles O1: the two cases of the queue; popping the queue changes its commands only. -/
theorem stepTakesFrontCommand : Obligations.StepTakesFrontCommand := by
  refine ⟨fun c rest s front => ?_, fun _ empty => step_of_empty empty⟩
  have popped : s.popped rest = { s with pending := rest } := rfl
  rw [step_of_front front, popped]

end Sys2Proof.Machine
end
